-- ==== Sys2Proof/Word.lean ====
section
/-! DEFINITION. The block's units of data: words, bytes, command words and its fixed-size arrays
(00_scope.md R7, R9). Every value is unsigned; `+` on words is addition modulo 2^32 (R10, R102), which is
`BitVec`'s own addition. -/

namespace Sys2Proof

/-- "an unsigned 32-bit integer" (00_scope.md glossary, R7 WORD). -/
abbrev Word := BitVec 32

/-- A message byte: 8 bits, bit 7 most significant (30_encoding.md R79). -/
abbrev Byte := BitVec 8

/-- A command word: exactly 16 bits (30_encoding.md R70, R76). -/
abbrev CommandWord := BitVec 16

/-- The digest state `H` and the working variables `V`: 8 words (00_scope.md R7 STATE). -/
abbrev Words8 := Vector Word 8

/-- The message schedule `W` and the constants `K`: 64 words (00_scope.md R7 SCHED, NK). -/
abbrev Words64 := Vector Word 64

/-- A block: 64 bytes (00_scope.md R7 BLOCK). -/
abbrev Block := Vector Byte 64

end Sys2Proof
end

