-- ==== Sys2Proof/Syntax.lean ====
section
/-! DEFINITION. The host's commands: one constructor per row of spec/opcode_table.json (30_encoding.md R71).
A word that decodes to no command is no instruction; the decoder names it (`Cmd.illegal`). -/

namespace Sys2Proof

/-- A legal command. `ABSORB` is the only one with an operand: the message byte of `IMM8` (R73). -/
inductive Instr where
  | nop
  | init
  | absorb (b : Byte)
  | final
  deriving DecidableEq, Repr

end Sys2Proof
end

