-- ==== Sys2Proof/WellFormed.lean ====
section
/-! DEFINITION. Well-formedness of instructions and of raw command words.

The one operand of an instruction, the byte of ABSORB, carries its width in its type, and R73 allows every
value of it, so every term of `Instr` is well formed. The checks with something to refuse are those of a raw
command word: the reserved bits of R72, the reserved operations of R71 and the `IMM8 = 0` of R73. -/

namespace Sys2Proof

/-- Every instruction is well formed: the operand's type carries its only constraint (R73). -/
def Instr.wf : Instr → Bool
  | .nop => true
  | .init => true
  | .absorb _ => true
  | .final => true

/-- `RSV`, bits 11:8, is zero (30_encoding.md R72). -/
def CommandWord.reservedBitsClear (c : CommandWord) : Bool :=
  c.extractLsb' 8 4 == 0#4

/-- `OP`, bits 15:12, is one of the four assigned operations (30_encoding.md R71). -/
def CommandWord.operationAssigned (c : CommandWord) : Bool :=
  (c.extractLsb' 12 4).toNat < 4

/-- `IMM8`, bits 7:0, is zero unless the operation is ABSORB (30_encoding.md R73). -/
def CommandWord.immediateAllowed (c : CommandWord) : Bool :=
  c.extractLsb' 12 4 == 2#4 || c.extractLsb' 0 8 == 0#8

/-- The word passes every check of R70 to R73: it is one of the 259 words of R74. -/
def CommandWord.wf (c : CommandWord) : Bool :=
  CommandWord.reservedBitsClear c && CommandWord.operationAssigned c && CommandWord.immediateAllowed c

end Sys2Proof
end

