-- ==== Sys2Proof/Decode.lean ====
section
/-! DEFINITION. The decoder of 30_encoding.md R74, total on all 2^16 words and rejecting by name, and the
encoder of R71. -/

namespace Sys2Proof

/-- Why a word decodes to no command: the three groups of words that R75 lists. To the block they are one
thing, `ILLEGAL` (60_exceptions.md R203). -/
inductive Illegal where
  /-- `RSV != 0` (R72), whatever `OP` is. -/
  | reservedBits
  /-- `OP` in `0x4..0xF` (R71). -/
  | reservedOperation
  /-- NOP, INIT or FINAL with `IMM8 != 0` (R73). -/
  | nonzeroImmediate
  deriving DecidableEq, Repr

/-- What a word decodes to: `Cmd` of R74, its four legal constructors being those of `Instr`. -/
inductive Cmd where
  | legal (i : Instr)
  | illegal (why : Illegal)
  deriving DecidableEq, Repr

/-- `OP`, bits 15:12 (R70). -/
def opField (c : CommandWord) : BitVec 4 := c.extractLsb' 12 4

/-- `RSV`, bits 11:8 (R70). -/
def rsvField (c : CommandWord) : BitVec 4 := c.extractLsb' 8 4

/-- `IMM8`, bits 7:0 (R70), taken as it stands (R73). -/
def immField (c : CommandWord) : Byte := c.extractLsb' 0 8

/-- A command that takes no operand: legal only with `IMM8 = 0x00` (R73). -/
def nullary (imm : Byte) (i : Instr) : Cmd :=
  if imm = 0#8 then .legal i else .illegal .nonzeroImmediate

/-- `Decode(c)` of R74. -/
def decode (c : CommandWord) : Cmd :=
  if rsvField c ≠ 0#4 then .illegal .reservedBits
  else if opField c = 0x0#4 then nullary (immField c) .nop
  else if opField c = 0x1#4 then nullary (immField c) .init
  else if opField c = 0x2#4 then .legal (.absorb (immField c))
  else if opField c = 0x3#4 then nullary (immField c) .final
  else .illegal .reservedOperation

/-- The word made of the three fields of R70: `OP || RSV || IMM8`. -/
def commandWord (op rsv : BitVec 4) (imm : Byte) : CommandWord := op ++ rsv ++ imm

/-- The word of a command, from the table of R71. -/
def encode : Instr → CommandWord
  | .nop => commandWord 0x0#4 0x0#4 0x00#8
  | .init => commandWord 0x1#4 0x0#4 0x00#8
  | .absorb b => commandWord 0x2#4 0x0#4 b
  | .final => commandWord 0x3#4 0x0#4 0x00#8

/-- The instruction a decoded word stands for, if any. -/
def Cmd.instr? : Cmd → Option Instr
  | .legal i => some i
  | .illegal _ => none

/-- The instruction this decoder reads from an instruction whose `nbits` bits, numbered as
spec/opcode_table.json numbers them, are `w`. Every command is exactly one 16-bit word (R70, R76), so a
longer one is none of this machine's, and the bits a shorter row leaves out are 0. -/
def decodeTableWord (nbits w : Nat) : Option Instr :=
  if nbits ≤ 16 then (decode (BitVec.ofNat 16 (w % 2 ^ nbits))).instr? else none

end Sys2Proof
end

