-- ==== Sys2Proof/Machine/Operands.lean ====
section
/-! DEFINITION. The data encodings of 30_encoding.md section 5: how bytes become words, lengths become bytes,
and the digest state becomes the output. Big-endian throughout (20_memory.md R54). The one operand a command
carries, `IMM8`, is taken as it stands by the decoder (R73). -/

namespace Sys2Proof.Machine

/-- `BE32(b0, b1, b2, b3) = b0 || b1 || b2 || b3` (R80). -/
def be32 (b0 b1 b2 b3 : Byte) : Word := b0 ++ b1 ++ b2 ++ b3

/-- `M[i]`, the `i`-th of the 16 words of a block (R81). -/
def blockWord (B : Block) (i : Fin 16) : Word :=
  be32 B[4 * i.val] B[4 * i.val + 1] B[4 * i.val + 2] B[4 * i.val + 3]

/-- `BE64bytes(v)`: `L[k] = v[63-8k : 56-8k]` (R82). -/
def be64bytes (v : BitVec 64) : List Byte :=
  (List.range 8).map fun k => v.extractLsb' (56 - 8 * k) 8

/-- The 64 bytes of block `j` of a byte sequence (R53, R179 `P[0..63]` and `P[64..127]`). It is only used on
blocks the sequence has in full (R152, R183), so the filler is never taken. -/
def blockAt (bytes : List Byte) (j : Nat) : Block :=
  Vector.ofFn fun i => bytes.getD (64 * j + i.val) 0#8

/-- The 256 bits of the digest output, `H[0]` most significant (R83). -/
def digestBits (h : Words8) : BitVec 256 :=
  h[0] ++ h[1] ++ h[2] ++ h[3] ++ h[4] ++ h[5] ++ h[6] ++ h[7]

/-- Digest byte `k`, most significant first: `H[k div 4][31 - 8(k mod 4) : 24 - 8(k mod 4)]` (R83). -/
def digestByte (h : Words8) (k : Fin 32) : Byte :=
  h[k.val / 4].extractLsb' (24 - 8 * (k.val % 4)) 8

/-- The hex digit of a nibble, from `0123456789abcdef` (R84). -/
def hexDigit (n : BitVec 4) : Char :=
  if n.toNat < 10 then Char.ofNat (48 + n.toNat) else Char.ofNat (87 + n.toNat)

/-- `Hex(H)`: character `j` is the hex digit of `DIGEST[255 - 4j : 252 - 4j]` (R84, R182). -/
def hexDigest (h : Words8) : List Char :=
  (List.range 64).map fun j => hexDigit ((digestBits h).extractLsb' (252 - 4 * j) 4)

end Sys2Proof.Machine
end

