-- ==== Sys2Proof/Config.lean ====
section
/-! DEFINITION. What the model fixes that no run changes: the sizes of 00_scope.md R7, the length limit of
44_stream.md R177, and the values that the registers R41 calls `UNWRITTEN` hold at reset (log 2).
No value is left free here: spec/93 settles every behaviour the source leaves open by a fault, a refusal or a
parameter, and none by an undetermined result of a step that goes on (log 11). -/

namespace Sys2Proof.Config

/-- Message bytes in a block (R7 BLOCK). -/
def blockBytes : Nat := 64

/-- Rounds for one block (R7 ROUNDS). -/
def rounds : Nat := 64

/-- Engine steps for one block: one EXPAND, 64 ROUND, one FOLD (42_compression.md R136). -/
def stepsPerBlock : Nat := 66

/-- Bytes of a tail that still leave room for `0x80` and the 8 length bytes (43_padding.md R152). -/
def oneBlockTail : Nat := 55

/-- Messages are shorter than this many bytes, 2^61 (44_stream.md R177, R183). -/
def messageLimit : Nat := 2 ^ 61

/-- The value of `LenBits` at which a further ABSORB would reach 2^64 bits (44_stream.md R177). -/
def lenLimit : BitVec 64 := BitVec.ofNat 64 (2 ^ 64 - 8)

/-- DESIGN CHOICE (log 2): what a word register that no step has written holds after reset. -/
def unwrittenWord : Word := 0#32

/-- DESIGN CHOICE (log 2): what a byte register that no step has written holds after reset. -/
def unwrittenByte : Byte := 0#8

end Sys2Proof.Config
end

