-- ==== Sys2Proof/Machine/State.lean ====
section
/-! DEFINITION. The architectural state of SHA256-CORE (10_state.md), plain data; the reasons a step or a read
can stop; and the state after reset (R41). The read-only tables `K` and `IV` are constants
(Machine/Tables.lean), since no step writes them (R39, log 3). -/

namespace Sys2Proof.Machine

/-- The state machine's state (10_state.md R30). -/
inductive Mode where
  | idle
  | absorb
  | busy
  | done
  deriving DecidableEq, Repr

/-- The engine's sequencing state, meaningful only while `Mode = BUSY` (10_state.md R27). -/
inductive Phase where
  | expand
  | round
  | fold
  deriving DecidableEq, Repr

/-- What follows the fold of the current block (10_state.md R29). -/
inductive After where
  | toAbsorb
  | toPad2
  | toDone
  deriving DecidableEq, Repr

/-- The sticky fault record (10_state.md R33). -/
inductive FaultCode where
  | none
  | illegalCmd
  | badState
  | lenOverflow
  deriving DecidableEq, Repr

/-- What the host does at one step besides having words to present (log 1). -/
inductive HostMove where
  /-- Presents its oldest word not yet accepted, if it has one (44_stream.md R170). -/
  | offer
  /-- Presents nothing during this step ("The host may present nothing", R170). -/
  | pause
  /-- Takes its presented word back before it is accepted (70_reset_and_hazards.md R223). -/
  | withdraw
  /-- Asserts reset (70_reset_and_hazards.md R220). -/
  | assertReset
  deriving DecidableEq, Repr

/-- A register or register element that R41 leaves `UNWRITTEN` at reset. -/
inductive Register where
  | h
  | v
  | w
  | t
  | phase
  | after
  | blk
  | buf (i : Fin 64)
  deriving DecidableEq, Repr

/-- The `UNWRITTEN` markers (00_scope.md R11, 10_state.md R22): `true` once a step has written the register
since the last reset. Registers written whole have one marker, `Buf` one for each element. -/
structure Written where
  h     : Bool
  v     : Bool
  w     : Bool
  t     : Bool
  phase : Bool
  after : Bool
  blk   : Bool
  buf   : Vector Bool 64
  deriving DecidableEq, Repr

/-- Every marker `UNWRITTEN`, as reset leaves them (R41). -/
def Written.nothing : Written :=
  { h := false, v := false, w := false, t := false, phase := false, after := false, blk := false
    buf := Vector.replicate 64 false }

/-- Why the model stops. The block's own faults are not these: they are state (`FaultCode`, R33), and the step
that raises one answers a next state (60_exceptions.md R201, R209). -/
inductive Fault where
  /-- Raised by the engine's step in a state with `Phase = ROUND` and `T = 64`: no rule has a step there
  (R132 reads `K[T]` and `W[T]` with `0 <= T <= 63`, and R51 says no index leaves its range). No run from
  reset reaches such a state. Safe: the model stops where the spec has no step. -/
  | roundIndexOutOfRange
  deriving DecidableEq, Repr

/-- What the model refuses. -/
inductive Refusal where
  /-- An instruction that has no meaning yet, by its mnemonic. No arm of `exec` answers it. Safe. -/
  | notModelled (mnemonic : String)
  /-- Answered by `readDigest` while `DVALID = 0`: the port has no value (44_stream.md R181, U4).
  Safe: no intermediate `H` is given out. -/
  | digestNotValid
  deriving DecidableEq, Repr

/-- The state of one instance of the block (10_state.md R20), with the host's side of its command port. -/
structure State where
  /-- `H[0..7]`, the Digest State (R23). -/
  h         : Words8
  /-- `V[0..7]`, the working variables `a..h` (R24). -/
  v         : Words8
  /-- `W[0..63]`, the message schedule (R25). -/
  w         : Words64
  /-- `T`, the round counter, 0 to 64 (R26). -/
  t         : Fin 65
  /-- `Phase` (R27). -/
  phase     : Phase
  /-- `Blk[0..63]`, the block under compression (R28). -/
  blk       : Block
  /-- `Buf[0..63]`, the block buffer (R31). -/
  buf       : Block
  /-- `Cnt`, the number of valid bytes in `Buf`, 0 to 63 (R31). -/
  cnt       : Fin 64
  /-- `LenBits`, the Message Length Counter (R32). -/
  lenBits   : BitVec 64
  /-- `After` (R29). -/
  after     : After
  /-- `Mode` (R30). -/
  mode      : Mode
  /-- `FaultCode` (R33). -/
  faultCode : FaultCode
  /-- `FaultCmd`, the word that faulted (R34). -/
  faultCmd  : CommandWord
  /-- The `UNWRITTEN` markers (R11, R22). -/
  written   : Written
  /-- The model's own (log 1): the words the host has still to have accepted, oldest first. The host's place in
  its stream is not state of the block (R21). -/
  commands  : List CommandWord
  /-- The model's own (log 1): what the host does at each coming step. Past the end of the list it offers. -/
  moves     : List HostMove
  deriving DecidableEq, Repr

/-- The machine right after reset (10_state.md R41). `mode`, `faultCode`, `faultCmd`, `cnt` and `lenBits` have
R41's values. R41 leaves the other registers `UNWRITTEN`: their markers say so, and the values they hold are
the model's (DESIGN CHOICE, log 2). The host has presented nothing (DESIGN CHOICE, log 1). -/
def State.reset : State :=
  { h         := Vector.replicate 8 Config.unwrittenWord
    v         := Vector.replicate 8 Config.unwrittenWord
    w         := Vector.replicate 64 Config.unwrittenWord
    t         := 0
    phase     := .expand
    blk       := Vector.replicate 64 Config.unwrittenByte
    buf       := Vector.replicate 64 Config.unwrittenByte
    cnt       := 0
    lenBits   := 0#64
    after     := .toAbsorb
    mode      := .idle
    faultCode := .none
    faultCmd  := 0x0000#16
    written   := Written.nothing
    commands  := []
    moves     := [] }

end Sys2Proof.Machine
end

