-- ==== Sys2Proof/Machine/Flags.lean ====
section
/-! DEFINITION. The block's outputs, each a pure function of the state (10_state.md R35). They are its only status
bits: there are no condition flags (R36). -/

namespace Sys2Proof.Machine

/-- The encoding of `Mode` (R30). -/
def Mode.code : Mode → BitVec 2
  | .idle => 0#2
  | .absorb => 1#2
  | .busy => 2#2
  | .done => 3#2

/-- The encoding of `Phase` in a model (R27). -/
def Phase.code : Phase → BitVec 2
  | .expand => 0#2
  | .round => 1#2
  | .fold => 2#2

/-- The encoding of `FaultCode` (R33). -/
def FaultCode.code : FaultCode → BitVec 2
  | .none => 0#2
  | .illegalCmd => 1#2
  | .badState => 2#2
  | .lenOverflow => 3#2

/-- `READY`: 1 iff `Mode != BUSY` and `FaultCode = NONE` (R35). The host's step is enabled iff it holds (R59). -/
def State.ready (s : State) : Bool := s.mode ≠ .busy ∧ s.faultCode = .none

/-- `DVALID`: 1 iff `Mode = DONE` and `FaultCode = NONE` (R35). -/
def State.dvalid (s : State) : Bool := s.mode = .done ∧ s.faultCode = .none

/-- The engine's step is enabled iff `FaultCode = NONE` and `Mode = BUSY` (20_memory.md R59). -/
def State.engineEnabled (s : State) : Bool := s.mode = .busy ∧ s.faultCode = .none

/-- `STATUS`: bits 7:6 reserved and 0, 5:4 `FAULT`, 3:2 `MODE`, 1 `DVALID`, 0 `READY` (R35). -/
def State.status (s : State) : BitVec 8 :=
  0#2 ++ s.faultCode.code ++ s.mode.code ++ BitVec.ofBool s.dvalid ++ BitVec.ofBool s.ready

/-- `FAULT_CMD` (R35). -/
def State.faultCmdOut (s : State) : CommandWord := s.faultCmd

/-- A read of `DIGEST`: its 256 bits while `DVALID = 1`, refused otherwise (R35, 44_stream.md R181). It has no
side effect (20_memory.md R58). -/
def State.readDigest (s : State) : Except Refusal (BitVec 256) :=
  if s.dvalid then .ok (digestBits s.h) else .error .digestNotValid

end Sys2Proof.Machine
end

