-- ==== Sys2Proof/Machine/Ops.lean ====
section
/-! DEFINITION. The shared operations: one write of each register, which also marks it written (10_state.md R22);
accepting a command (44_stream.md R170); the fault step (60_exceptions.md R201) and, beside it, the reset step,
which is the only way out of a fault (R207, R208). All writes of one step take effect together (00_scope.md R11):
a meaning reads the state it is given and answers one new state. -/

namespace Sys2Proof.Machine

/-- `H[0..7] <- x`. -/
def State.setH (s : State) (x : Words8) : State :=
  { s with h := x, written := { s.written with h := true } }

/-- `V[0..7] <- x`. -/
def State.setV (s : State) (x : Words8) : State :=
  { s with v := x, written := { s.written with v := true } }

/-- `W[0..63] <- x`. -/
def State.setW (s : State) (x : Words64) : State :=
  { s with w := x, written := { s.written with w := true } }

/-- `T <- x`. -/
def State.setT (s : State) (x : Fin 65) : State :=
  { s with t := x, written := { s.written with t := true } }

/-- `Phase <- x`. -/
def State.setPhase (s : State) (x : Phase) : State :=
  { s with phase := x, written := { s.written with phase := true } }

/-- `Blk[0..63] <- x`. -/
def State.setBlk (s : State) (x : Block) : State :=
  { s with blk := x, written := { s.written with blk := true } }

/-- `Buf[i] <- b`. -/
def State.setBufByte (s : State) (i : Fin 64) (b : Byte) : State :=
  { s with buf := s.buf.set i.val b, written := { s.written with buf := s.written.buf.set i.val true } }

/-- `Buf[0..63] <- x`. -/
def State.setBuf (s : State) (x : Block) : State :=
  { s with buf := x, written := { s.written with buf := Vector.replicate 64 true } }

/-- `Cnt <- x`. -/
def State.setCnt (s : State) (x : Fin 64) : State := { s with cnt := x }

/-- `LenBits <- x`. -/
def State.setLenBits (s : State) (x : BitVec 64) : State := { s with lenBits := x }

/-- `After <- x`. -/
def State.setAfter (s : State) (x : After) : State :=
  { s with after := x, written := { s.written with after := true } }

/-- `Mode <- x`. -/
def State.setMode (s : State) (x : Mode) : State := { s with mode := x }

/-- The host's words still to be accepted (the model's own, log 1). -/
def State.setCommands (s : State) (x : List CommandWord) : State := { s with commands := x }

/-- The host's coming moves (the model's own, log 1). -/
def State.setMoves (s : State) (x : List HostMove) : State := { s with moves := x }

/-- `raise Fault(code)` on the accepted word `c`: `FaultCode <- code`, `FaultCmd <- c` and nothing else (R201). -/
def raiseFault (code : FaultCode) (c : CommandWord) (s : State) : State :=
  { s with faultCode := code, faultCmd := c }

/-- The reset step (70_reset_and_hazards.md R220): every register to its value of R41. What the host has still
to present stays with the host: "a command presented during reset is not accepted" (log 1). -/
def resetStep (s : State) : State :=
  { State.reset with commands := s.commands, moves := s.moves }

/-- A command presented to the block: accepted iff `READY = 1`, and otherwise held with no effect (R170). -/
def accepted (s : State) (effect : State) : Host.Outcome State Fault Refusal :=
  .next (if s.ready then effect else s)

end Sys2Proof.Machine
end

