-- ==== Sys2Proof/Machine/Control.lean ====
section
/-! DEFINITION. The commands that move no message byte: NOP (44_stream.md R172) and INIT (R173). -/

namespace Sys2Proof.Machine

/-- NOP: no register changes (R172). -/
def execNop (s : State) : Host.Outcome State Fault Refusal := accepted s s

/-- `H <- IV`, `LenBits <- 0`, `Cnt <- 0`, `Mode <- ABSORB` (R173). -/
def initEffect (s : State) : State :=
  (((s.setH ivTable).setLenBits 0#64).setCnt 0).setMode .absorb

/-- INIT: start a hash computation, in any mode that accepts a command (R173). -/
def execInit (s : State) : Host.Outcome State Fault Refusal := accepted s (initEffect s)

end Sys2Proof.Machine
end

