-- ==== Sys2Proof/Machine/Padding.lean ====
section
/-! DEFINITION. The padding calculator (43_padding.md R150, R151). The count of zero bytes follows the algorithm and
the 55-byte threshold, not the source's garbled parenthesis (90_conflicts.md C1); the length is taken in bits (C2). -/

namespace Sys2Proof.Machine

/-- `z = (55 - c) mod 64`, the number of zero bytes, as an integer remainder (R151). -/
def zeroBytes (c : Nat) : Nat := ((55 - (c : Int)) % 64).toNat

/-- `Pad(tail, L)` (R151). -/
def pad (tail : List Byte) (L : BitVec 64) : List Byte :=
  tail ++ [0x80#8] ++ List.replicate (zeroBytes tail.length) 0x00#8 ++ be64bytes L

end Sys2Proof.Machine
end

