-- ==== Sys2Proof/Machine/Stream.lean ====
section
/-! DEFINITION. The commands that carry the message: ABSORB (44_stream.md R174 to R177) and FINAL (R178, R179).
The word a fault records is the command's own, `encode i`. -/

namespace Sys2Proof.Machine

/-- ABSORB into a buffer that does not fill, `Cnt < 63` (R175). -/
def absorbByte (b : Byte) (s : State) (hc : s.cnt.val < 63) : State :=
  ((s.setBufByte s.cnt b).setCnt ⟨s.cnt.val + 1, by omega⟩).setLenBits (s.lenBits + 8#64)

/-- ABSORB that completes a block, `Cnt = 63`: the block is handed to the engine at once (R176). -/
def absorbLast (b : Byte) (s : State) : State :=
  ((((((s.setBufByte 63 b).setBlk (s.buf.set 63 b)).setCnt 0).setLenBits (s.lenBits + 8#64)).setAfter
    .toAbsorb).setPhase .expand).setMode .busy

/-- ABSORB once accepted: the mode check, the length check, then the byte (R174; the order is
60_exceptions.md R206). -/
def absorbEffect (b : Byte) (s : State) : State :=
  if s.mode ≠ .absorb then raiseFault .badState (encode (.absorb b)) s
  else if s.lenBits = Config.lenLimit then raiseFault .lenOverflow (encode (.absorb b)) s
  else if hc : s.cnt.val < 63 then absorbByte b s hc
  else absorbLast b s

/-- ABSORB `b`: the next message byte (R174). -/
def execAbsorb (b : Byte) (s : State) : Host.Outcome State Fault Refusal := accepted s (absorbEffect b s)

/-- `Buf[0..Cnt-1]`, the message tail (43_padding.md R150). -/
def messageTail (s : State) : List Byte := s.buf.toList.take s.cnt.val

/-- FINAL in `Mode = ABSORB`: one padding block, or two with the second left in `Buf` (R179). -/
def finalBlocks (s : State) : State :=
  let P := pad (messageTail s) s.lenBits
  let s' := s.setBlk (blockAt P 0)
  let s'' := if s.cnt.val ≤ Config.oneBlockTail then s'.setAfter .toDone
    else (s'.setBuf (blockAt P 1)).setAfter .toPad2
  ((s''.setCnt 0).setPhase .expand).setMode .busy

/-- FINAL once accepted: the mode check (R178), then the padding. -/
def finalEffect (s : State) : State :=
  if s.mode ≠ .absorb then raiseFault .badState (encode .final) s else finalBlocks s

/-- FINAL: end the message (R178, R179). -/
def execFinal (s : State) : Host.Outcome State Fault Refusal := accepted s (finalEffect s)

end Sys2Proof.Machine
end

