-- ==== Sys2Proof/Machine/WordFunctions.lean ====
section
/-! DEFINITION. The word functions of 40_word_functions.md (R100 to R108), total on all 32-bit words (R109).
Addition is `BitVec`'s `+`, modulo 2^32 (R102). -/

namespace Sys2Proof.Machine

/-- `x >> n`, logical right shift (R101). -/
def shr (x : Word) (n : Nat) : Word := x >>> n

/-- `rotr(x, n) = (x >> n) | (x << (32 - n))` (R100). -/
def rotr (x : Word) (n : Nat) : Word := shr x n ||| (x <<< (32 - n))

/-- `sigma0`, the schedule's small sigma 0 (R103). -/
def sigma0 (x : Word) : Word := rotr x 7 ^^^ rotr x 18 ^^^ shr x 3

/-- `sigma1`, the schedule's small sigma 1 (R104). -/
def sigma1 (x : Word) : Word := rotr x 17 ^^^ rotr x 19 ^^^ shr x 10

/-- `Sigma0`, the round's big sigma 0 (R105). -/
def bigSigma0 (x : Word) : Word := rotr x 2 ^^^ rotr x 13 ^^^ rotr x 22

/-- `Sigma1`, the round's big sigma 1 (R106). -/
def bigSigma1 (x : Word) : Word := rotr x 6 ^^^ rotr x 11 ^^^ rotr x 25

/-- `Ch`, choose (R107). -/
def ch (x y z : Word) : Word := (x &&& y) ^^^ (~~~x &&& z)

/-- `Maj`, majority (R108). -/
def maj (x y z : Word) : Word := (x &&& y) ^^^ (x &&& z) ^^^ (y &&& z)

end Sys2Proof.Machine
end

