-- ==== Sys2Proof/Machine/Schedule.lean ====
section
/-! DEFINITION. The message schedule expander (41_schedule.md R120 to R122). -/

namespace Sys2Proof.Machine

/-- Loading: `S[t] = BE32(B[4t], ...)` for `t` in 0..15 (R121). The other 48 places are rewritten by the
expansion before anything reads them. -/
def loadSchedule (B : Block) : Words64 :=
  Vector.ofFn fun t => if h : t.val < 16 then blockWord B ⟨t.val, h⟩ else 0#32

/-- The right-hand side of R122 for `t` in 16..63. -/
def scheduleWord (S : Words64) (t : Nat) (lo : 16 ≤ t) (hi : t < 64) : Word :=
  sigma1 S[t - 2] + S[t - 7] + sigma0 S[t - 15] + S[t - 16]

/-- Expansion of the word `16 + i` (R122). -/
def expandAt (S : Words64) (i : Fin 48) : Words64 :=
  S.set (16 + i.val) (scheduleWord S (16 + i.val) (by omega) (by omega))

/-- `Expand(B)`: the words of R121, then those of R122 in increasing `t`. -/
def expand (B : Block) : Words64 :=
  (List.finRange 48).foldl expandAt (loadSchedule B)

/-- The next 16-word window of a schedule computed word by word (R125): the oldest word leaves, the next of R122
enters. -/
def slideWindow (win : Vector Word 16) : Vector Word 16 :=
  Vector.ofFn fun i =>
    if h : i.val < 15 then win[i.val + 1] else sigma1 win[14] + win[9] + sigma0 win[1] + win[0]

/-- The window whose oldest word is the schedule word of round `t` (R125). The machine itself computes all 64 words
in EXPAND (R123). -/
def windowAt (B : Block) : Nat → Vector Word 16
  | 0 => Vector.ofFn fun i => blockWord B i
  | t + 1 => slideWindow (windowAt B t)

end Sys2Proof.Machine
end

