-- ==== Sys2Proof/Machine/Compression.lean ====
section
/-! DEFINITION. The round function and the compression function (42_compression.md R130, R131, R135). -/

namespace Sys2Proof.Machine

/-- `T1 = h + Sigma1(e) + Ch(e, f, g) + k + w` (R130). -/
def temp1 (v : Words8) (kt wt : Word) : Word :=
  v[7] + bigSigma1 v[4] + ch v[4] v[5] v[6] + kt + wt

/-- `T2 = Sigma0(a) + Maj(a, b, c)` (R130). -/
def temp2 (v : Words8) : Word := bigSigma0 v[0] + maj v[0] v[1] v[2]

/-- `Round(v, k, w)`: every right-hand side reads the old variables (R130). -/
def roundFn (v : Words8) (kt wt : Word) : Words8 :=
  #v[temp1 v kt wt + temp2 v, v[0], v[1], v[2], v[3] + temp1 v kt wt, v[4], v[5], v[6]]

/-- The round as the source writes it, one assignment after another into the same variables (R130):
`h=g; g=f; f=e; e=d+T1; d=c; c=b; b=a; a=T1+T2`. -/
def roundInPlace (v : Words8) (kt wt : Word) : Words8 :=
  let t1 := temp1 v kt wt
  let t2 := temp2 v
  let v := v.set 7 v[6]
  let v := v.set 6 v[5]
  let v := v.set 5 v[4]
  let v := v.set 4 (v[3] + t1)
  let v := v.set 3 v[2]
  let v := v.set 2 v[1]
  let v := v.set 1 v[0]
  v.set 0 (t1 + t2)

/-- The first `n` rounds of R135's loop, on the schedule `S`. -/
def roundsUpTo (S : Words64) (v : Words8) (n : Nat) : Words8 :=
  ((List.finRange 64).take n).foldl (fun v t => roundFn v kTable[t.val] S[t.val]) v

/-- `H[i] + V[i]` for each `i`, each modulo 2^32 (R133). -/
def addWords (x y : Words8) : Words8 := Vector.ofFn fun i => x[i.val] + y[i.val]

/-- `Compress(Hin, B)` (R135). -/
def compress (hin : Words8) (B : Block) : Words8 :=
  addWords hin (roundsUpTo (expand B) hin 64)

end Sys2Proof.Machine
end

