-- ==== Sys2Proof/Machine/Engine.lean ====
section
/-! DEFINITION. The engine's steps: EXPAND (41_schedule.md R123), ROUND (42_compression.md R132), FOLD (R133,
R134). They are enabled while `Mode = BUSY` and `FaultCode = NONE` (20_memory.md R59), which
`internalStep` checks. -/

namespace Sys2Proof.Machine

/-- EXPAND: `W <- Expand(Blk)`, `V <- H`, `T <- 0`, `Phase <- ROUND` (R123). -/
def expandStep (s : State) : State :=
  (((s.setW (expand s.blk)).setV s.h).setT 0).setPhase .round

/-- ROUND for `T < 64`: `V <- Round(V, K[T], W[T])`, `T <- T + 1`, and `Phase <- FOLD` after round 63 (R132). -/
def roundStepAt (s : State) (ht : s.t.val < 64) : State :=
  let s' := (s.setV (roundFn s.v kTable[s.t.val] s.w[s.t.val])).setT ⟨s.t.val + 1, by omega⟩
  if s.t.val + 1 = 64 then s'.setPhase .fold else s'

/-- ROUND. With `T = 64` there is no round to run: a model fault, which no run reaches (R132, log 5). -/
def roundStep (s : State) : Host.Outcome State Fault Refusal :=
  if ht : s.t.val < 64 then .next (roundStepAt s ht) else .fault .roundIndexOutOfRange

/-- FOLD, the dispatch part (R134). -/
def foldDispatch (s : State) : State :=
  match s.after with
  | .toAbsorb => s.setMode .absorb
  | .toPad2 => ((s.setBlk s.buf).setAfter .toDone).setPhase .expand
  | .toDone => s.setMode .done

/-- FOLD: `H[i] <- H[i] + V[i]`, and in the same step the dispatch (R133, R134). -/
def foldStep (s : State) : State := foldDispatch (s.setH (addWords s.h s.v))

/-- The engine's step, selected by `Phase` (R27). -/
def engineStep (s : State) : Host.Outcome State Fault Refusal :=
  match s.phase with
  | .expand => .next (expandStep s)
  | .round => roundStep s
  | .fold => .next (foldStep s)

/-- What the block does by itself: the engine's step if it is enabled, and otherwise nothing. The block waits with
no time limit (44_stream.md R170), and a faulted one stays as it is (60_exceptions.md R207; log 8). -/
def internalStep (s : State) : Host.Outcome State Fault Refusal :=
  if s.engineEnabled then engineStep s else .next s

end Sys2Proof.Machine
end

