-- ==== Sys2Proof/Machine/Port.lean ====
section
/-! DEFINITION. The command port and the order in which the two agents step (44_stream.md R170, R171; 20_memory.md
R59). `run` is the meaning of a legal command. The host's side is data in State (log 1). -/

namespace Sys2Proof.Machine

/-- `HostStep(c)` for an accepted word: a word that decodes to no command raises `ILLEGAL_CMD` (R171,
60_exceptions.md R203); a command runs. -/
def hostStep (run : Instr → State → Host.Outcome State Fault Refusal) (c : CommandWord) (s : State) :
    Host.Outcome State Fault Refusal :=
  match decode c with
  | .legal i => run i s
  | .illegal _ => .next (raiseFault .illegalCmd c s)

/-- A step in which the host offers its oldest word: accepted iff `READY = 1`; held otherwise, while the block
does what it does by itself (R170). -/
def offerStep (run : Instr → State → Host.Outcome State Fault Refusal) (s : State) :
    Host.Outcome State Fault Refusal :=
  match s.commands with
  | [] => internalStep s
  | c :: rest => if s.ready then hostStep run c (s.setCommands rest) else internalStep s

/-- One step of the block and its host: the host's move is used up, reset has its way in every state
(70_reset_and_hazards.md R220), and a host that pauses or withdraws its word leaves the block to itself. -/
def portStep (run : Instr → State → Host.Outcome State Fault Refusal) (s : State) :
    Host.Outcome State Fault Refusal :=
  match s.moves with
  | [] => offerStep run s
  | .offer :: ms => offerStep run (s.setMoves ms)
  | .pause :: ms => internalStep (s.setMoves ms)
  | .withdraw :: ms => internalStep ((s.setMoves ms).setCommands s.commands.tail)
  | .assertReset :: ms => .next (resetStep (s.setMoves ms))

/-- The host puts the word `c` before all it had to present, and offers it at the next step. -/
def presentNext (c : CommandWord) (s : State) : State :=
  (s.setCommands (c :: s.commands)).setMoves (.offer :: s.moves)

end Sys2Proof.Machine
end

