-- ==== Sys2Proof/Machine/Step.lean ====
section
/-! DEFINITION. The one step function of the machine, and how a command word is placed where it takes its next
one. The block runs no program and has no program counter (10_state.md R21): it takes its next command from the
host's port. -/

namespace Sys2Proof.Machine

/-- One step: the host's, the engine's, or reset (20_memory.md R59). -/
def step (s : State) : Host.Outcome State Fault Refusal := portStep exec s

/-- `s` with the word of an instruction presented at the port, so that the next step accepts and runs it when
`READY = 1`, as it is after reset. A command is one 16-bit word (R70); bits above `nbits` are 0. -/
def State.withFetchWord (s : State) (nbits w : Nat) : State :=
  presentNext (BitVec.ofNat 16 (w % 2 ^ nbits)) s

end Sys2Proof.Machine
end

