-- ==== Sys2Proof/Machine/Assembler.lean ====
section
/-! DEFINITION. The assembler syntax and the pseudo-commands (30_encoding.md R77, R78): the host's notation for a
stream of command words. Text is a list of characters, a character stands for its ASCII code (00_scope.md R9, GK1). -/

namespace Sys2Proof.Machine

/-- One line of a program: a command, a raw word, or a pseudo-command. -/
inductive AsmLine where
  | nop
  | init
  | absorb (b : Byte)
  | final
  | word (c : CommandWord)
  | absorbs (text : List Byte)
  | absorbx (bytes : List Byte)
  | absorbn (n : Nat) (b : Byte)
  | hash (text : List Byte)
  deriving DecidableEq, Repr

/-- One ABSORB for each byte, in order (R78). -/
def absorbWords (bytes : List Byte) : List CommandWord := bytes.map fun b => encode (.absorb b)

/-- The command sequence that hashes a message: INIT, its bytes, FINAL (R78 `HASH`, 44_stream.md R183). -/
def hashWords (m : List Byte) : List CommandWord := encode .init :: (absorbWords m ++ [encode .final])

/-- The words a line stands for (R77, R78). -/
def AsmLine.words : AsmLine → List CommandWord
  | .nop => [encode .nop]
  | .init => [encode .init]
  | .absorb b => [encode (.absorb b)]
  | .final => [encode .final]
  | .word c => [c]
  | .absorbs text => absorbWords text
  | .absorbx bytes => absorbWords bytes
  | .absorbn n b => absorbWords (List.replicate n b)
  | .hash text => hashWords text

/-- Why a line is not assembled. -/
inductive AsmError where
  | unknownMnemonic
  | badOperand
  deriving DecidableEq, Repr

/-- What a line of text is. -/
inductive AsmText where
  | blank
  | line (l : AsmLine)
  | error (e : AsmError)
  deriving DecidableEq, Repr

/-- The character `"`. -/
def quoteMark : Char := Char.ofNat 34

/-- The character `'`. -/
def tickMark : Char := Char.ofNat 39

/-- Where a character of a line stands: outside every literal, in a string, or at the character of a character literal
`'c'` or the place of its closing tick (R77, R78). -/
inductive LiteralPart where
  | outside
  | inString
  | charBody
  | charClose
  deriving DecidableEq, Repr

/-- Where the character after `c` stands. A character literal is one character between two ticks, whatever that
character is, so that `'''` is the tick. -/
def LiteralPart.after (c : Char) : LiteralPart → LiteralPart
  | .outside => if c = quoteMark then .inString else if c = tickMark then .charBody else .outside
  | .inString => if c = quoteMark then .outside else .inString
  | .charBody => .charClose
  | .charClose => .outside

/-- The line without its comment: `;` starts one (R77), but not in a literal (DESIGN CHOICE, log 12). -/
def stripComment : LiteralPart → List Char → List Char
  | _, [] => []
  | part, c :: cs => if part = .outside ∧ c = ';' then [] else c :: stripComment (part.after c) cs

/-- A separator: a space or a tab. -/
def isBlankChar (c : Char) : Bool := c = ' ' ∨ c = Char.ofNat 9

/-- The text without separators at its ends. -/
def trimBlanks (cs : List Char) : List Char :=
  (((cs.dropWhile isBlankChar).reverse).dropWhile isBlankChar).reverse

/-- The capital of an ASCII letter; mnemonics are case-insensitive (R77). -/
def upperChar (c : Char) : Char := if 97 ≤ c.toNat ∧ c.toNat ≤ 122 then Char.ofNat (c.toNat - 32) else c

/-- The value of a hex digit of either case. -/
def hexValue (c : Char) : Option Nat :=
  if 48 ≤ c.toNat ∧ c.toNat ≤ 57 then some (c.toNat - 48)
  else if 65 ≤ (upperChar c).toNat ∧ (upperChar c).toNat ≤ 70 then some ((upperChar c).toNat - 55)
  else none

/-- The value of digits in a base, most significant first. -/
def digitsValue (base acc : Nat) : List Char → Option Nat
  | [] => some acc
  | c :: cs =>
    match hexValue c with
    | some d => if d < base then digitsValue base (base * acc + d) cs else none
    | none => none

/-- A number of `ABSORB` or `ABSORBN`: `0x` and hex digits, or decimal digits (R77), leading zeros allowed (DESIGN CHOICE,
log 12). -/
def parseNumber : List Char → Option Nat
  | [] => none
  | '0' :: 'x' :: c :: cs => digitsValue 16 0 (c :: cs)
  | cs => digitsValue 10 0 cs

/-- The digits of a raw word: hex digits, with `0x` before them or not. -/
def parseHexNumber : List Char → Option Nat
  | [] => none
  | '0' :: 'x' :: c :: cs => digitsValue 16 0 (c :: cs)
  | cs => digitsValue 16 0 cs

/-- The byte of an ASCII character (GK1). -/
def asciiByte (c : Char) : Option Byte := if c.toNat < 128 then some (BitVec.ofNat 8 c.toNat) else none

/-- The operand of `ABSORB`: a character literal or a number up to 255 (R77). -/
def parseByte (cs : List Char) : Option Byte :=
  match cs with
  | [q, c, q'] =>
    if q = tickMark ∧ q' = tickMark then asciiByte c
    else (parseNumber cs).bind fun n => if n < 256 then some (BitVec.ofNat 8 n) else none
  | _ => (parseNumber cs).bind fun n => if n < 256 then some (BitVec.ofNat 8 n) else none

/-- The operand of `.word`: a 16-bit word (R77), in hex with `0x` or without it. R77 does not give the operand's spelling, R9
writes hex with `0x`, and 95_test_vectors.md program L3-6 writes `.word 3001` for the word 0x3001: that a bare operand
is hex, and never decimal, is the model's choice (DEDUCED from L3-6, log 14). -/
def parseWord (cs : List Char) : Option CommandWord :=
  (parseHexNumber cs).bind fun n => if n < 65536 then some (BitVec.ofNat 16 n) else none

/-- The characters up to the closing quote, which must end the text. -/
def parseQuoted : List Char → Option (List Byte)
  | [] => none
  | c :: cs =>
    if c = quoteMark then (if cs.isEmpty then some [] else none)
    else (asciiByte c).bind fun b => (parseQuoted cs).map (b :: ·)

/-- A string operand (R78). -/
def parseString : List Char → Option (List Byte)
  | [] => none
  | c :: cs => if c = quoteMark then parseQuoted cs else none

/-- The bytes `hh hh ...` of `ABSORBX` (R78). The rule does not give `ABSORBX` with no byte; that it expands to nothing, as
`ABSORBS ""` does, is the model's choice (DESIGN CHOICE, log 12). -/
def parseHexBytes : List Char → Option (List Byte)
  | [] => some []
  | [_] => none
  | c :: d :: rest =>
    if isBlankChar c then parseHexBytes (d :: rest)
    else
      match hexValue c, hexValue d, rest with
      | some x, some y, [] => some [BitVec.ofNat 8 (16 * x + y)]
      | some x, some y, sep :: rest' =>
        if isBlankChar sep then (parseHexBytes rest').map (BitVec.ofNat 8 (16 * x + y) :: ·) else none
      | _, _, _ => none

/-- The operands `n, b` of `ABSORBN` (R78). The rule shows one blank after the comma and none before it; that any number of
blanks, none among them, may stand on either side of the comma is the model's choice (DESIGN CHOICE, log 12). -/
def parseCounted (cs : List Char) : Option (Nat × Byte) :=
  match cs.span (· ≠ ',') with
  | (n, ',' :: b) => (parseNumber (trimBlanks n)).bind fun n => (parseByte (trimBlanks b)).map (n, ·)
  | _ => none

/-- A line, or the error of an operand that is not one. -/
def lineOf (l : Option AsmLine) : AsmText :=
  match l with
  | some l => .line l
  | none => .error .badOperand

/-- A mnemonic that takes no operand. -/
def bare (operand : List Char) (l : AsmLine) : AsmText :=
  lineOf (if operand.isEmpty then some l else none)

/-- A line of program text (R77, R78). -/
def parseLine (text : List Char) : AsmText :=
  let body := trimBlanks (stripComment .outside text)
  let mnemonic := (body.takeWhile fun c => !isBlankChar c).map upperChar
  let operand := trimBlanks (body.dropWhile fun c => !isBlankChar c)
  if mnemonic = [] then .blank
  else if mnemonic = ['N', 'O', 'P'] then bare operand .nop
  else if mnemonic = ['I', 'N', 'I', 'T'] then bare operand .init
  else if mnemonic = ['F', 'I', 'N', 'A', 'L'] then bare operand .final
  else if mnemonic = ['A', 'B', 'S', 'O', 'R', 'B'] then lineOf ((parseByte operand).map .absorb)
  else if mnemonic = ['.', 'W', 'O', 'R', 'D'] then lineOf ((parseWord operand).map .word)
  else if mnemonic = ['A', 'B', 'S', 'O', 'R', 'B', 'S'] then lineOf ((parseString operand).map .absorbs)
  else if mnemonic = ['A', 'B', 'S', 'O', 'R', 'B', 'X'] then lineOf ((parseHexBytes operand).map .absorbx)
  else if mnemonic = ['A', 'B', 'S', 'O', 'R', 'B', 'N'] then
    lineOf ((parseCounted operand).map fun p => .absorbn p.1 p.2)
  else if mnemonic = ['H', 'A', 'S', 'H'] then lineOf ((parseString operand).map .hash)
  else .error .unknownMnemonic

/-- The words of a program, one line after another, in order; none if a line is in error (R77). -/
def assemble : List (List Char) → Option (List CommandWord)
  | [] => some []
  | text :: rest =>
    match parseLine text with
    | .blank => assemble rest
    | .line l => (assemble rest).map (l.words ++ ·)
    | .error _ => none

/-- A hex digit of a listing, in capitals as the spec writes hex (00_scope.md R9; log 12). -/
def listingDigit (n : BitVec 4) : Char :=
  if n.toNat < 10 then Char.ofNat (48 + n.toNat) else Char.ofNat (55 + n.toNat)

/-- A word as hex digits, most significant first. -/
def listingWord (c : CommandWord) : List Char :=
  [12, 8, 4, 0].map fun lo => listingDigit (c.extractLsb' lo 4)

/-- A listing line: the word in hex, two spaces, the assembly (R77). A word that is no command is shown as the
`.word` line that presents it. -/
def listing (c : CommandWord) : List Char :=
  listingWord c ++ [' ', ' '] ++
    match decode c with
    | .legal .nop => ['N', 'O', 'P']
    | .legal .init => ['I', 'N', 'I', 'T']
    | .legal (.absorb b) =>
      ['A', 'B', 'S', 'O', 'R', 'B', ' ', '0', 'x', listingDigit (b.extractLsb' 4 4), listingDigit (b.extractLsb' 0 4)]
    | .legal .final => ['F', 'I', 'N', 'A', 'L']
    | .illegal _ => ['.', 'w', 'o', 'r', 'd', ' ', '0', 'x'] ++ listingWord c

end Sys2Proof.Machine
end

