-- ==== Sys2Proof/Machine/System.lean ====
section
/-! DEFINITION. `NINST` instances of the block side by side (00_scope.md R8, 60_exceptions.md R212). The number is a
parameter (U8, log 13). They share only the constants; a step of one reads and writes only its own state. -/

namespace Sys2Proof.Machine

/-- A system of `n` instances. -/
abbrev System (n : Nat) := Vector State n

/-- Every instance right after its reset. -/
def systemReset (n : Nat) : System n := Vector.replicate n State.reset

/-- A step of instance `i` (R212). -/
def systemStep {n : Nat} (i : Fin n) (sys : System n) : Host.Outcome (System n) Fault Refusal :=
  match step sys[i.val] with
  | .next s' => .next (sys.set i.val s')
  | .fault r => .fault r
  | .refused r => .refused r

/-- A step of instance `i` and then one of instance `j`. -/
def systemSteps {n : Nat} (i j : Fin n) (sys : System n) : Host.Outcome (System n) Fault Refusal :=
  match systemStep i sys with
  | .next sys' => systemStep j sys'
  | .fault r => .fault r
  | .refused r => .refused r

end Sys2Proof.Machine
end

