-- ==== Sys2Proof/Machine/Digest.lean ====
section
/-! DEFINITION. The digest of a whole message (44_stream.md R183). -/

namespace Sys2Proof.Machine

/-- `h` after compressing the blocks `0 .. n-1` of a byte sequence, in order (R183, 42_compression.md R138). -/
def compressBlocks (h : Words8) (bytes : List Byte) (n : Nat) : Words8 :=
  (List.range n).foldl (fun h j => compress h (blockAt bytes j)) h

/-- The bytes of a message after its last full block (R183). -/
def tailBytes (m : List Byte) : List Byte := m.drop (64 * (m.length / 64))

/-- The padding of a message: `Pad` of its tail and its length in bits (R183, 43_padding.md R156). -/
def messagePadding (m : List Byte) : List Byte := pad (tailBytes m) (BitVec.ofNat 64 (8 * m.length))

/-- `Digest(m)` (R183). -/
def digest (m : List Byte) : Words8 :=
  compressBlocks (compressBlocks ivTable m (m.length / 64)) (messagePadding m) ((messagePadding m).length / 64)

/-- The number of blocks a message of `n` bytes compresses: its full blocks and one padding block, or two when
more than 55 bytes are left over (43_padding.md R152). -/
def blockCount (n : Nat) : Nat := n / 64 + if n % 64 ≤ Config.oneBlockTail then 1 else 2

end Sys2Proof.Machine
end

