-- ==== Sys2Proof/Machine/Run.lean ====
section
/-! DEFINITION. Several steps in a row, and the host's moves that leave the block to itself. -/

namespace Sys2Proof.Machine

/-- `n` steps, ending at the first fault or refusal. -/
def stepN : Nat → State → Host.Outcome State Fault Refusal
  | 0, s => .next s
  | n + 1, s =>
    match step s with
    | .next s' => stepN n s'
    | .fault r => .fault r
    | .refused r => .refused r

/-- The host's next move, as far as it concerns the host alone: it is used up, and `withdraw` takes one word back. -/
def takeHostMove (s : State) : State :=
  match s.moves with
  | [] => s
  | .offer :: ms => s.setMoves ms
  | .pause :: ms => s.setMoves ms
  | .withdraw :: ms => (s.setMoves ms).setCommands s.commands.tail
  | .assertReset :: ms => s.setMoves ms

/-- The state after the host's first `n` moves, as far as they concern the host alone. -/
def afterHostMoves : Nat → State → State
  | 0, s => s
  | n + 1, s => afterHostMoves n (takeHostMove s)

end Sys2Proof.Machine
end

