-- ==== Sys2Proof/Safety.lean ====
section
/-! DEFINITION. What claims speak of: when a run is over, which registers the next step reads and whether one of
them is `UNWRITTEN` (10_state.md R22, 60_exceptions.md R209), the invariant of the machine, and what it means that a
message has been absorbed. -/

namespace Sys2Proof.Machine

/-- A run has ended with a digest. A faulted state is never final (60_exceptions.md R207). -/
def State.final (s : State) : Prop := s.mode = .done ∧ s.faultCode = .none

/-- The host asserts no reset in its coming moves. -/
def noReset (s : State) : Prop := HostMove.assertReset ∉ s.moves

/-- The fault an accepted word raises, in the order of 60_exceptions.md R206: the table of R202. -/
def expectedFault (c : CommandWord) (s : State) : FaultCode :=
  match decode c with
  | .illegal _ => .illegalCmd
  | .legal .nop => .none
  | .legal .init => .none
  | .legal (.absorb _) =>
    if s.mode ≠ .absorb then .badState else if s.lenBits = Config.lenLimit then .lenOverflow else .none
  | .legal .final => if s.mode ≠ .absorb then .badState else .none

/-! ### Reads of registers that may be UNWRITTEN -/

/-- The marker of a register (10_state.md R22). -/
def State.isWritten (s : State) : Register → Bool
  | .h => s.written.h
  | .v => s.written.v
  | .w => s.written.w
  | .t => s.written.t
  | .phase => s.written.phase
  | .after => s.written.after
  | .blk => s.written.blk
  | .buf i => s.written.buf[i.val]

/-- `Buf[0..n-1]`. -/
def bufferRegisters (n : Nat) : List Register := ((List.finRange 64).take n).map .buf

/-- What an accepted command reads, of the registers R41 leaves `UNWRITTEN` (20_memory.md R57). -/
def commandReads (s : State) : Instr → List Register
  | .nop => []
  | .init => []
  | .absorb _ =>
    if s.mode = .absorb ∧ s.lenBits ≠ Config.lenLimit ∧ s.cnt.val = 63 then bufferRegisters 63 else []
  | .final => if s.mode = .absorb then bufferRegisters s.cnt.val else []

/-- What the engine's step reads of them (20_memory.md R57), `Phase` to select the step. -/
def engineReads (s : State) : List Register :=
  if s.engineEnabled then
    .phase :: match s.phase with
      | .expand => [.blk, .h]
      | .round => [.v, .t, .w]
      | .fold => [.h, .v, .after] ++ if s.after = .toPad2 then bufferRegisters 64 else []
  else []

/-- What a step reads of them in which the host offers its oldest word. -/
def offerReads (s : State) : List Register :=
  match s.commands with
  | [] => engineReads s
  | c :: _ =>
    if s.ready then
      match decode c with
      | .legal i => commandReads s i
      | .illegal _ => []
    else engineReads s

/-- What the next step reads of them. -/
def nextReads (s : State) : List Register :=
  match s.moves with
  | [] => offerReads s
  | .offer :: _ => offerReads s
  | .pause :: _ => engineReads s
  | .withdraw :: _ => engineReads s
  | .assertReset :: _ => []

/-- The step with the check of 60_exceptions.md R209 around it: where the step would read a register still `UNWRITTEN`, the
answer is that register and no outcome, the model fault of 10_state.md R22 (U5). It is no stop of the machine: every
register holds a value at reset, and `step` itself goes on with that value (log 4). -/
def checkedStep (s : State) : Except Register (Host.Outcome State Fault Refusal) :=
  match (nextReads s).find? (fun r => !s.isWritten r) with
  | some r => .error r
  | none => .ok (step s)

/-! ### The invariant -/

/-- What the record of a fault says (60_exceptions.md R202 to R205; 10_state.md R34). -/
structure FaultRecorded (s : State) : Prop where
  none_cmd : s.faultCode = .none → s.faultCmd = 0x0000#16
  illegal_cmd : s.faultCode = .illegalCmd → ∃ why, decode s.faultCmd = .illegal why
  badState_mode : s.faultCode = .badState → s.mode = .idle ∨ s.mode = .done
  badState_cmd : s.faultCode = .badState → s.faultCmd = encode .final ∨ ∃ b, s.faultCmd = encode (.absorb b)
  lenOverflow_mode : s.faultCode = .lenOverflow → s.mode = .absorb ∧ s.lenBits = Config.lenLimit
  lenOverflow_cmd : s.faultCode = .lenOverflow → ∃ b, s.faultCmd = encode (.absorb b)
  busy_none : s.mode = .busy → s.faultCode = .none

/-- How the buffer count and the length counter go together (10_state.md R31, R32, R41). -/
structure CountsAgree (s : State) : Prop where
  whole_bytes : s.lenBits.toNat % 8 = 0
  idle_empty : s.mode = .idle → s.lenBits = 0#64
  absorb_cnt : s.mode = .absorb → s.lenBits.toNat / 8 % 64 = s.cnt.val
  elsewhere_empty : s.mode ≠ .absorb → s.cnt.val = 0
  handed_over_whole : s.mode = .busy → s.after = .toAbsorb → s.lenBits.toNat % 512 = 0

/-- Where the engine stands in the block it compresses (10_state.md R26, R28; 42_compression.md R136, R137): after
`T` rounds on the schedule of `Blk`, from the digest state `H`. -/
structure EngineOnCourse (s : State) : Prop where
  round_t : s.mode = .busy → s.phase = .round → s.t.val < 64
  fold_t : s.mode = .busy → s.phase = .fold → s.t.val = 64
  schedule : s.mode = .busy → s.phase ≠ .expand → s.w = expand s.blk
  working : s.mode = .busy → s.phase ≠ .expand → s.v = roundsUpTo s.w s.h s.t.val

/-- The length field of the last padding block (43_padding.md R153, R154): it ends the block under compression when that
is the last one, and the block waiting in `Buf` when there is one. -/
structure LengthFieldInPlace (s : State) : Prop where
  last_block : s.mode = .busy → s.after = .toDone → s.blk.toList.drop 56 = be64bytes s.lenBits
  second_block : s.mode = .busy → s.after = .toPad2 →
    s.buf.toList = List.replicate 56 0x00#8 ++ be64bytes s.lenBits

/-- What has been written by when (10_state.md R22: the reasons it gives). -/
structure WrittenInTime (s : State) : Prop where
  digest_state : s.mode ≠ .idle → s.written.h = true
  buffered : s.mode = .absorb → ∀ i : Fin 64, i.val < s.cnt.val → s.written.buf[i.val] = true
  handed_over : s.mode = .busy → s.written.phase = true ∧ s.written.after = true ∧ s.written.blk = true
  expanded : s.mode = .busy → s.phase ≠ .expand →
    s.written.v = true ∧ s.written.w = true ∧ s.written.t = true
  second_block : s.mode = .busy → s.after = .toPad2 → ∀ i : Fin 64, s.written.buf[i.val] = true

/-- The invariant of the machine. -/
structure MachineInv (s : State) : Prop where
  fault : FaultRecorded s
  counts : CountsAgree s
  engine : EngineOnCourse s
  length : LengthFieldInPlace s
  written : WrittenInTime s

/-! ### Messages -/

/-- A computation is open and the bytes `m` have been absorbed, every full block of them folded into `H`
(10_state.md R23, R31, R32). -/
structure Absorbed (m : List Byte) (s : State) : Prop where
  short : m.length < Config.messageLimit
  mode : s.mode = .absorb
  noFault : s.faultCode = .none
  lenBits : s.lenBits = BitVec.ofNat 64 (8 * m.length)
  cnt : s.cnt.val = m.length % 64
  buf : messageTail s = tailBytes m
  h : s.h = compressBlocks ivTable m (m.length / 64)

/-- The message bytes a stream of NOP and ABSORB words carries, in order (20_memory.md R53). -/
def streamBytes (ws : List CommandWord) : List Byte :=
  ws.filterMap fun c =>
    match decode c with
    | .legal (.absorb b) => some b
    | _ => none

/-! ### Numbers as text -/

/-- A hex digit as a character, in capitals or not (30_encoding.md R77; log 12). -/
def hexDigitChar (d : Fin 16) (capital : Bool) : Char :=
  if d.val < 10 then Char.ofNat (48 + d.val) else Char.ofNat (d.val + if capital then 55 else 87)

/-- Hex digits as text, each in its own case. -/
def hexText (ds : List (Fin 16 × Bool)) : List Char := ds.map fun d => hexDigitChar d.1 d.2

/-- The number that hex digits write, most significant first. -/
def hexNumber (ds : List (Fin 16 × Bool)) : Nat := ds.foldl (fun n d => 16 * n + d.1.val) 0

/-- Decimal digits as text. -/
def decimalText (ds : List (Fin 10)) : List Char := ds.map fun d => Char.ofNat (48 + d.val)

/-- The number that decimal digits write, most significant first. -/
def decimalNumber (ds : List (Fin 10)) : Nat := ds.foldl (fun n d => 10 * n + d.val) 0

/-- What may follow a line's operand: nothing, or a blank and a comment (30_encoding.md R77). -/
def endsLine (cs : List Char) : Prop := cs = [] ∨ ∃ comment, cs = ' ' :: ';' :: comment

/-! ### What the host cannot tell apart -/

/-- Two states that differ only in what the host cannot see and no later output can show (10_state.md R40, R22):
registers outside the time in which a step reads them. -/
structure SameForHost (s t : State) : Prop where
  mode : s.mode = t.mode
  faultCode : s.faultCode = t.faultCode
  faultCmd : s.faultCmd = t.faultCmd
  cnt : s.cnt = t.cnt
  lenBits : s.lenBits = t.lenBits
  commands : s.commands = t.commands
  moves : s.moves = t.moves
  h : s.mode ≠ .idle → s.h = t.h
  buffered : s.mode = .absorb ∨ s.mode = .busy → messageTail s = messageTail t
  block : s.mode = .busy → s.phase = t.phase ∧ s.after = t.after ∧ s.blk = t.blk
  working : s.mode = .busy → s.phase ≠ .expand → s.v = t.v ∧ s.w = t.w ∧ s.t = t.t
  second : s.mode = .busy → s.after = .toPad2 → s.buf = t.buf

end Sys2Proof.Machine
end

