-- ==== Sys2Proof/Certificates/Slice0/Obligations.lean ====
section
/-! DEFINITION. The statements about the model. Each docstring names the rule of spec/ it formalises, or, where it
rests on an inference the spec marks as derived or on a choice of the model, that sentence or the log entry. -/

open Sys2Proof Sys2Proof.Machine

/-! ### Encoding -/

/-- 30_encoding.md sections 1 and 2. The word of a well-formed command decodes to that command, for every message
byte; and a word that decodes to a command is that command's word, so no bit of it is dropped. -/
def Obligations.DecodeEncodeAgree : Prop :=
  (∀ i : Instr, i.wf = true → decode (encode i) = .legal i) ∧
  (∀ (c : CommandWord) (i : Instr), decode c = .legal i → encode i = c)

/-- R72, R73, R75: the illegal words are those with `OP` in 0x4..0xF, with `RSV != 0`, or NOP, INIT and FINAL words
with `IMM8 != 0`, the fields read off the word's value; an accepted one raises ILLEGAL_CMD and is recorded. Every other
word is well formed, and stands for one command, ABSORB with the byte of `IMM8` as it stands. -/
def Obligations.IllegalWordsClassified : Prop :=
  ∀ c : CommandWord,
    ((∃ why, decode c = .illegal why) ↔
      4 ≤ c.toNat / 4096 ∨ c.toNat / 256 % 16 ≠ 0 ∨
        ((c.toNat / 4096 = 0 ∨ c.toNat / 4096 = 1 ∨ c.toNat / 4096 = 3) ∧ c.toNat % 256 ≠ 0)) ∧
    (∀ (s : State) (why : Illegal), s.ready = true → decode c = .illegal why →
      hostStep exec c s = .next { s with faultCode := .illegalCmd, faultCmd := c }) ∧
    ((∃ i, decode c = .legal i) ↔ CommandWord.wf c = true) ∧
    (∀ i : Instr, decode c = .legal i ↔
      (c = 0x0000#16 ∧ i = .nop) ∨ (c = 0x1000#16 ∧ i = .init) ∨ (c = 0x3000#16 ∧ i = .final) ∨
        ∃ b : Byte, c = 0x2000#16 + b.setWidth 16 ∧ i = .absorb b)

/-- Words written out from the table of R71: each decodes to the command it stands for, or to none. -/
def Obligations.WordsOfTheTableDecode : Prop :=
  decode 0b0000000000000000#16 = .legal .nop ∧ decode 0b0001000000000000#16 = .legal .init ∧
  decode 0b0010000001100001#16 = .legal (.absorb 0x61#8) ∧ decode 0b0010000011111111#16 = .legal (.absorb 0xFF#8) ∧
  decode 0b0011000000000000#16 = .legal .final ∧ decode 0b0010000100000000#16 = .illegal .reservedBits ∧
  decode 0b0100000000000000#16 = .illegal .reservedOperation ∧
  decode 0b0001000000000001#16 = .illegal .nonzeroImmediate

/-! ### The host's step -/

/-- 44_stream.md sections 1 and 2 on the model's port (log 1): when the host offers a word that decodes to a command
and `READY = 1`, the step is that command's meaning, at the state with the word taken off the port; a word that decodes to none raises its fault
there. The word that `withFetchWord` places is accepted at the very next step, whatever else the host had to present. -/
def Obligations.StepRunsTheDecodedCommand : Prop :=
  (∀ (s : State) (c : CommandWord) (rest : List CommandWord) (i : Instr),
    s.ready = true → s.commands = c :: rest → decode c = .legal i →
    (s.moves = [] → step s = exec i { s with commands := rest }) ∧
    (∀ ms, s.moves = .offer :: ms → step s = exec i { s with commands := rest, moves := ms })) ∧
  (∀ (s : State) (c : CommandWord) (rest : List CommandWord) (why : Illegal),
    s.ready = true → s.commands = c :: rest → s.moves = [] → decode c = .illegal why →
    step s = .next { s with commands := rest, faultCode := .illegalCmd, faultCmd := c }) ∧
  (∀ (s : State) (w : Nat) (i : Instr), s.ready = true → decode (BitVec.ofNat 16 w) = .legal i →
    step (s.withFetchWord 16 w) = exec i s)

/-- R203: a word that decodes to ILLEGAL, accepted in any mode that accepts one, raises ILLEGAL_CMD and records the
word; in `ABSORB` the status is then 0x14. -/
def Obligations.IllegalWordFaults : Prop :=
  ∀ (s : State) (c : CommandWord) (why : Illegal), s.ready = true → decode c = .illegal why →
    hostStep exec c s = .next { s with faultCode := .illegalCmd, faultCmd := c } ∧
    (s.mode = .absorb → State.status { s with faultCode := .illegalCmd, faultCmd := c } = 0x14#8)

/-- R201, R202, R206: an accepted word raises the first fault that applies, in the order ILLEGAL_CMD, BAD_STATE,
LEN_OVERFLOW, shown with its code in `STATUS.FAULT`; and a fault changes `FaultCode` and `FaultCmd` and nothing else. -/
def Obligations.FaultsInOrderAndPrecise : Prop :=
  ∀ (s : State) (c : CommandWord), s.ready = true →
    ∃ t, hostStep exec c s = .next t ∧ t.faultCode = expectedFault c s ∧
      (t.faultCode ≠ .none → t = { s with faultCode := t.faultCode, faultCmd := c }) ∧
      t.status.extractLsb' 4 2 =
        (match expectedFault c s with | .none => 0#2 | .illegalCmd => 1#2 | .badState => 2#2 | .lenOverflow => 3#2)

/-- R204: in `IDLE` and `DONE`, ABSORB and FINAL raise BAD_STATE and record their word; NOP and INIT are accepted without
a fault in every mode that accepts a command, and ABSORB and FINAL raise no BAD_STATE in `ABSORB`. `BUSY` accepts nothing.
FINAL in `IDLE` leaves the status 0x20. -/
def Obligations.BadStateOutsideAComputation : Prop :=
  (∀ (s : State) (b : Byte), s.faultCode = .none → s.mode = .idle ∨ s.mode = .done →
    exec (.absorb b) s = .next { s with faultCode := .badState, faultCmd := 0x2000#16 + b.setWidth 16 } ∧
    exec .final s = .next { s with faultCode := .badState, faultCmd := 0x3000#16 }) ∧
  (∀ (s : State) (i : Instr), s.ready = true → (i = .nop ∨ i = .init ∨ s.mode = .absorb) →
    ∃ t, exec i s = .next t ∧ t.faultCode ≠ .badState ∧ (i = .nop ∨ i = .init → t.faultCode = .none)) ∧
  (∀ (s : State) (i : Instr), s.mode = .busy → exec i s = .next s) ∧
  (∀ s : State, s.faultCode = .none → s.mode = .idle →
    State.status { s with faultCode := .badState, faultCmd := 0x3000#16 } = 0x20#8)

/-- 44_stream.md section 1 on the model's port (log 1): while `READY = 0` a command has no effect, and a presented word is
not accepted: it stays presented, and the step is what the block does by itself. -/
def Obligations.HeldWhileNotReady : Prop :=
  ∀ s : State, s.ready = false →
    (∀ i : Instr, exec i s = .next s) ∧
    (s.moves = [] → step s = internalStep s) ∧
    (s.moves = [] → ∀ t, step s = .next t → t.commands = s.commands)

/-- R207: a faulted block has `READY = 0` and `DVALID = 0`, accepts no command, takes no engine step, and is never final;
reset clears the fault. -/
def Obligations.FaultedBlockIsQuiescent : Prop :=
  ∀ s : State, s.faultCode ≠ .none →
    s.ready = false ∧ s.dvalid = false ∧ (∀ i : Instr, exec i s = .next s) ∧ s.engineEnabled = false ∧
    internalStep s = .next s ∧ ¬ s.final ∧ (resetStep s).faultCode = .none

/-- 60_exceptions.md section 1 ("The fault is sticky: no command clears it; only reset does"), with the host's moves as data
(log 1): as long as the host asserts no reset nothing of a faulted block changes, however many steps pass; only the
host's own moves are used up. -/
def Obligations.FaultStaysUntilReset : Prop :=
  ∀ (s : State) (n : Nat), s.faultCode ≠ .none → noReset s →
    stepN n s = .next (afterHostMoves n s) ∧
    { afterHostMoves n s with commands := s.commands, moves := s.moves } = s

/-! ### The commands -/

/-- R172: NOP is the word 0x0000 and changes no register, in every mode. -/
def Obligations.NopChangesNothing : Prop :=
  encode .nop = 0x0000#16 ∧ ∀ s : State, exec .nop s = .next s

/-- R173: INIT, the word 0x1000, accepted in `IDLE`, `ABSORB` and `DONE`, sets `H` to `IV`, clears the counters and opens a
computation; everything else stays (the marker of `H` says it is written, R22). The status is then 0x05. -/
def Obligations.InitOpensAComputation : Prop :=
  encode .init = 0x1000#16 ∧
  ∀ s : State, s.faultCode = .none → s.mode = .idle ∨ s.mode = .absorb ∨ s.mode = .done →
    ∃ t, exec .init s = .next t ∧
      t = { s with h := ivTable, lenBits := 0#64, cnt := 0, mode := .absorb, written := t.written } ∧
      t.written = { s.written with h := true } ∧ t.status = 0x05#8

/-- R175: ABSORB into a buffer that does not fill writes the byte at `Cnt`, and counts it; every other register and
every other byte of `Buf` stays. -/
def Obligations.AbsorbAppendsTheByte : Prop :=
  ∀ (s : State) (b : Byte), s.faultCode = .none → s.mode = .absorb → s.lenBits ≠ Config.lenLimit → s.cnt.val < 63 →
    ∃ t, exec (.absorb b) s = .next t ∧
      t = { s with buf := t.buf, cnt := t.cnt, lenBits := s.lenBits + 8#64, written := t.written } ∧
      t.cnt.val = s.cnt.val + 1 ∧ t.buf[s.cnt.val] = b ∧
      (∀ i : Fin 64, i ≠ s.cnt → t.buf[i.val] = s.buf[i.val]) ∧
      t.written = { s.written with buf := s.written.buf.set s.cnt.val true }

/-- R176: the ABSORB that fills the 64th byte hands the block to the engine in the same step. -/
def Obligations.AbsorbHandsTheBlockOver : Prop :=
  ∀ (s : State) (b : Byte), s.faultCode = .none → s.mode = .absorb → s.lenBits ≠ Config.lenLimit → s.cnt.val = 63 →
    ∃ t, exec (.absorb b) s = .next t ∧
      t = { s with buf := t.buf, blk := t.blk, cnt := 0, lenBits := s.lenBits + 8#64, after := .toAbsorb,
                   phase := .expand, mode := .busy, written := t.written } ∧
      t.buf[63] = b ∧ t.blk[63] = b ∧
      (∀ i : Fin 64, i.val < 63 → t.buf[i.val] = s.buf[i.val] ∧ t.blk[i.val] = s.buf[i.val]) ∧
      t.written = { s.written with buf := s.written.buf.set 63 true, blk := true, after := true, phase := true } ∧
      t.ready = false

/-- R177, R205: at `LenBits = 2^64 - 8` ABSORB raises LEN_OVERFLOW and changes nothing else. -/
def Obligations.AbsorbAtTheLimitFaults : Prop :=
  ∀ (s : State) (b : Byte), s.faultCode = .none → s.mode = .absorb → s.lenBits.toNat = 2 ^ 64 - 8 →
    exec (.absorb b) s = .next { s with faultCode := .lenOverflow, faultCmd := 0x2000#16 + b.setWidth 16 }

/-- R179: FINAL in `Mode = ABSORB` hands over the first block of the padding of `Buf[0..Cnt-1]`; when `Cnt` is over 55 it
leaves the second in `Buf`. `LenBits` and everything else stays. -/
def Obligations.FinalHandsThePaddingOver : Prop :=
  ∀ s : State, s.faultCode = .none → s.mode = .absorb →
    ∃ t, exec .final s = .next t ∧
      t.blk = blockAt (pad (s.buf.toList.take s.cnt.val) s.lenBits) 0 ∧
      (s.cnt.val ≤ 55 →
        t = { s with blk := t.blk, after := .toDone, cnt := 0, phase := .expand, mode := .busy, written := t.written } ∧
        t.written = { s.written with blk := true, after := true, phase := true }) ∧
      (56 ≤ s.cnt.val →
        t = { s with blk := t.blk, buf := blockAt (pad (s.buf.toList.take s.cnt.val) s.lenBits) 1, after := .toPad2,
                     cnt := 0, phase := .expand, mode := .busy, written := t.written } ∧
        t.written = { s.written with blk := true, after := true, phase := true, buf := Vector.replicate 64 true })

/-- 20_memory.md section 3 (the table of what each step writes): what a command leaves unchanged. The engine's `V`, `W`
and `T` and the host's own data by every command; `H` by all but INIT; `LenBits` by NOP and FINAL; every byte of `Buf` but
the one at `Cnt` by ABSORB, and all of them by NOP and INIT; `Blk`, `After` and `Phase` by every command that does not hand
a block over. -/
def Obligations.CommandsLeaveTheRestAlone : Prop :=
  ∀ (i : Instr) (s t : State), exec i s = .next t →
    t.v = s.v ∧ t.w = s.w ∧ t.t = s.t ∧ t.commands = s.commands ∧ t.moves = s.moves ∧
    t.written.v = s.written.v ∧ t.written.w = s.written.w ∧ t.written.t = s.written.t ∧
    (i ≠ .init → t.h = s.h) ∧
    (i = .nop ∨ i = .final → t.lenBits = s.lenBits) ∧
    (i = .nop ∨ i = .init → t.buf = s.buf) ∧
    (∀ b, i = .absorb b → ∀ j : Fin 64, j ≠ s.cnt → t.buf[j.val] = s.buf[j.val]) ∧
    (t.mode ≠ .busy ∨ s.mode = .busy → t.blk = s.blk ∧ t.after = s.after ∧ t.phase = s.phase) ∧
    (t.faultCode ≠ s.faultCode → t.mode = s.mode ∧ t.buf = s.buf ∧ t.cnt = s.cnt ∧ t.lenBits = s.lenBits)

/-! ### The engine -/

/-- R123: EXPAND. -/
def Obligations.ExpandStepEffect : Prop :=
  ∀ s : State, s.mode = .busy → s.faultCode = .none → s.phase = .expand →
    internalStep s = .next { s with
      w := expand s.blk, v := s.h, t := 0, phase := .round
      written := { s.written with w := true, v := true, t := true, phase := true } }

/-- R132: ROUND for round `T`; `Phase` becomes FOLD after round 63, and stays before that. -/
def Obligations.RoundStepEffect : Prop :=
  ∀ (s : State) (j : Fin 64), s.mode = .busy → s.faultCode = .none → s.phase = .round → s.t.val = j.val →
    ∃ t, internalStep s = .next t ∧
      t = { s with v := roundFn s.v kTable[j.val] s.w[j.val], t := t.t, phase := t.phase, written := t.written } ∧
      t.t.val = j.val + 1 ∧ (j.val = 63 → t.phase = .fold) ∧ (j.val < 63 → t.phase = .round) ∧
      t.written.v = true ∧ t.written.t = true ∧
      t.written = { s.written with v := true, t := true, phase := t.written.phase } ∧
      (t.written.phase = if j.val = 63 then true else s.written.phase)

/-- The log's entry 5 (a model's choice): ROUND with `T = 64` has no step in the spec, and the model stops there. -/
def Obligations.NoRoundBeyondTheLast : Prop :=
  ∀ s : State, s.mode = .busy → s.faultCode = .none → s.phase = .round → s.t.val = 64 →
    internalStep s = .fault .roundIndexOutOfRange

/-- R133, R134: FOLD adds the working variables into `H`, each modulo 2^32, and dispatches by `After`. -/
def Obligations.FoldStepEffect : Prop :=
  ∀ s : State, s.mode = .busy → s.faultCode = .none → s.phase = .fold →
    ∃ t, internalStep s = .next t ∧
      (∀ i : Fin 8, (t.h[i.val]).toNat = ((s.h[i.val]).toNat + (s.v[i.val]).toNat) % 2 ^ 32) ∧
      (s.after = .toAbsorb →
        t = { s with h := t.h, mode := .absorb, written := { s.written with h := true } }) ∧
      (s.after = .toPad2 →
        t = { s with h := t.h, blk := s.buf, after := .toDone, phase := .expand
                     written := { s.written with h := true, blk := true, after := true, phase := true } }) ∧
      (s.after = .toDone →
        t = { s with h := t.h, mode := .done, written := { s.written with h := true } }) ∧
      (MachineInv s → t.cnt.val = 0)

/-- 42_compression.md section 3 ("The engine's steps for one block are exactly: one EXPAND, then ROUND with `T = 0, 1,
..., 63` in that order, then one FOLD"): after EXPAND and `n` rounds, whatever the host does short of reset, `T` is `n`, and
`V` is the first `n` rounds from `H` on the schedule of `Blk`; the host sees `STATUS = 0x08` throughout. That the engine
runs whatever the host does is log 9, on the model's port (log 1). -/
def Obligations.EngineRunsRoundsInOrder : Prop :=
  ∀ (s : State) (n : Nat), s.mode = .busy → s.faultCode = .none → s.phase = .expand → n ≤ 64 →
    .assertReset ∉ s.moves.take (n + 1) →
    ∃ t, stepN (n + 1) s = .next t ∧ t.t.val = n ∧ t.phase = (if n = 64 then .fold else .round) ∧
      t.w = expand s.blk ∧ t.v = roundsUpTo (expand s.blk) s.h n ∧ t.status = 0x08#8 ∧
      t.h = s.h ∧ t.blk = s.blk ∧ t.buf = s.buf ∧ t.cnt = s.cnt ∧ t.lenBits = s.lenBits ∧ t.after = s.after ∧
      t.mode = .busy ∧ t.faultCode = .none ∧ t.faultCmd = s.faultCmd ∧
      t.commands = (afterHostMoves (n + 1) s).commands ∧ t.moves = (afterHostMoves (n + 1) s).moves

/-- 42_compression.md section 3 ("after the 66 engine steps of rule R136 `H = Compress(Hin, B)`"): the whole block, whatever
the host does short of reset: `H` is the compression of `Blk`, the dispatch of the fold is done, and nothing else the host
can see has changed. That the engine runs whatever the host does is log 9, on the model's port (log 1). -/
def Obligations.BlockCompressesInSixtySixSteps : Prop :=
  ∀ s : State, s.mode = .busy → s.faultCode = .none → s.phase = .expand → .assertReset ∉ s.moves.take 66 →
    ∃ t, stepN 66 s = .next t ∧ t.h = compress s.h s.blk ∧
      (s.after = .toAbsorb → t.mode = .absorb ∧ t.blk = s.blk ∧ t.after = .toAbsorb) ∧
      (s.after = .toPad2 → t.mode = .busy ∧ t.blk = s.buf ∧ t.after = .toDone ∧ t.phase = .expand) ∧
      (s.after = .toDone → t.mode = .done ∧ t.blk = s.blk ∧ t.after = .toDone) ∧
      t.buf = s.buf ∧ t.cnt = s.cnt ∧ t.lenBits = s.lenBits ∧ t.faultCode = .none ∧ t.faultCmd = s.faultCmd ∧
      t.commands = (afterHostMoves 66 s).commands ∧ t.moves = (afterHostMoves 66 s).moves

/-- 70_reset_and_hazards.md section 4 ("Every block handed to the engine is folded after finitely many engine steps (66, or
132 for a two-block padding)"): from a busy state of the invariant, if the host asserts no reset, the block accepts
commands again within 132 steps. The spec makes this conditional on a scheduler that is weakly fair to the engine; the
model's `step` runs an enabled engine at every step that is not a reset, and the bound rests on that (log 9). -/
def Obligations.BusyEndsWithinTwoBlocks : Prop :=
  ∀ s : State, MachineInv s → s.mode = .busy → noReset s →
    ∃ n t, n ≤ 132 ∧ stepN n s = .next t ∧ t.ready = true

/-! ### Reset, status and digest -/

/-- 10_state.md sections 6 and 3: the registers the reset table gives a value, the UNWRITTEN markers of all others, and the
outputs after reset. `STATUS = 0x01` is the spec's own inference, from the table and the bits of STATUS. -/
def Obligations.ResetState : Prop :=
  State.reset.mode = .idle ∧ State.reset.faultCode = .none ∧ State.reset.faultCmd = 0x0000#16 ∧
  State.reset.cnt = 0 ∧ State.reset.lenBits = 0#64 ∧ (∀ r : Register, State.reset.isWritten r = false) ∧
  State.reset.status = 0x01#8 ∧ State.reset.readDigest = .error .digestNotValid

/-- 70_reset_and_hazards.md section 1, on the model's port: reset in any state, a busy or a faulted one too, sets the
registers to the reset section's values and markers, and the engine takes no further step. That reset is the host's
move, and that the words and moves presented stay with the host, is the model's choice (log 1). -/
def Obligations.ResetFromAnyState : Prop :=
  ∀ (s : State) (ms : List HostMove), s.moves = .assertReset :: ms →
    ∃ t, step s = .next t ∧ t.mode = .idle ∧ t.faultCode = .none ∧ t.faultCmd = 0x0000#16 ∧ t.cnt = 0 ∧
      t.lenBits = 0#64 ∧ (∀ r : Register, t.isWritten r = false) ∧ t.status = 0x01#8 ∧
      t.engineEnabled = false ∧ t.commands = s.commands ∧ t.moves = ms

/-- R35: the bits of STATUS. -/
def Obligations.StatusBits : Prop :=
  ∀ s : State,
    (s.status.getLsbD 0 = true ↔ s.mode ≠ .busy ∧ s.faultCode = .none) ∧
    (s.status.getLsbD 1 = true ↔ s.mode = .done ∧ s.faultCode = .none) ∧
    s.status.extractLsb' 2 2 = (match s.mode with | .idle => 0#2 | .absorb => 1#2 | .busy => 2#2 | .done => 3#2) ∧
    s.status.extractLsb' 4 2 =
      (match s.faultCode with | .none => 0#2 | .illegalCmd => 1#2 | .badState => 2#2 | .lenOverflow => 3#2) ∧
    s.status.extractLsb' 6 2 = 0#2 ∧
    s.faultCmdOut = s.faultCmd ∧
    (s.mode = .done → s.faultCode = .none → s.readDigest = .ok (digestBits s.h)) ∧
    (¬ (s.mode = .done ∧ s.faultCode = .none) → s.readDigest = .error .digestNotValid)

/-- 20_memory.md section 4: when each agent's step is enabled; apart from reset never both; the reset step is taken in every
state. The model's choices are in it: that without an enabled step the block answers the same state (log 8), that
reset is the host's move and leaves the host its lists (log 1), and the values that the UNWRITTEN registers of
`State.reset` hold (log 2). -/
def Obligations.AtMostOneAgentSteps : Prop :=
  ∀ s : State,
    (s.ready = true ↔ s.faultCode = .none ∧ s.mode ≠ .busy) ∧
    (s.engineEnabled = true ↔ s.faultCode = .none ∧ s.mode = .busy) ∧
    ¬ (s.ready = true ∧ s.engineEnabled = true) ∧
    (s.engineEnabled = false → internalStep s = .next s) ∧
    (∀ ms, s.moves = .assertReset :: ms →
      step s = .next { State.reset with commands := s.commands, moves := ms })

/-- 20_memory.md section 4 ("`DIGEST` while `DVALID = 1` equals `H` as left by the last FOLD of the last computation, and
stays so until the next accepted INIT or reset"): a step from a state with a valid digest keeps the digest, unless it is
the reset step, or an accepted INIT, or an accepted word that raises a fault. The host's side is the model's port (log 1). -/
def Obligations.DigestStaysUntilInitOrReset : Prop :=
  ∀ s t : State, s.dvalid = true → step s = .next t →
    (t.dvalid = true ∧ t.readDigest = s.readDigest) ∨
    (∃ ms, s.moves = .assertReset :: ms) ∨
    (∃ rest, s.commands = 0x1000#16 :: rest ∧ t.mode = .absorb ∧ t.h = ivTable) ∨
    (∃ c rest, s.commands = c :: rest ∧ expectedFault c s ≠ .none ∧ t.faultCode = expectedFault c s ∧ t.h = s.h)

/-- 44_stream.md section 4 (the table of all transitions): a step changes `Mode` only as the table says. The host's
side of it is the model's port (log 1). -/
def Obligations.ModeChangesOnlyByTheTable : Prop :=
  ∀ s t : State, step s = .next t →
    t.mode = s.mode ∨
    (t.mode = .idle ∧ ∃ ms, s.moves = .assertReset :: ms) ∨
    (t.mode = .absorb ∧ s.ready = true ∧ ∃ rest, s.commands = 0x1000#16 :: rest) ∨
    (t.mode = .busy ∧ s.mode = .absorb ∧ s.faultCode = .none ∧
      ((t.after = .toAbsorb ∧ s.cnt.val = 63 ∧ s.lenBits ≠ Config.lenLimit ∧
          ∃ b rest, s.commands = encode (.absorb b) :: rest) ∨
       (t.after = (if s.cnt.val ≤ 55 then .toDone else .toPad2) ∧ ∃ rest, s.commands = 0x3000#16 :: rest))) ∨
    (s.mode = .busy ∧ s.faultCode = .none ∧ s.phase = .fold ∧
      ((s.after = .toAbsorb ∧ t.mode = .absorb) ∨ (s.after = .toDone ∧ t.mode = .done)))

/-! ### Invariants -/

/-- The invariant holds right after reset. -/
def Obligations.InvariantAtReset : Prop := MachineInv State.reset

/-- Every step keeps the invariant: the fault record says which fault it was (R202 to R205, R34), `Cnt` and `LenBits` agree
(R31, R32), the engine is on course (R26, R28), the last padding block ends with the length (R153, R154), and everything a
step reads has been written (R22). -/
def Obligations.EveryStepKeepsTheInvariant : Prop :=
  ∀ s t : State, MachineInv s → step s = .next t → MachineInv t

/-- 10_state.md section 1 ("The rules of this spec never read an `UNWRITTEN` register in any run that starts at reset"):
from a state of the invariant the check of R209 finds no such read, and the checked step is the machine's own. That `step`
itself goes on at such a read is the model's choice (log 4), and the host's side of the step is its data (log 1). -/
def Obligations.NoStepReadsAnUnwrittenRegister : Prop :=
  ∀ s : State, MachineInv s → checkedStep s = .ok (step s)

/-- 60_exceptions.md section 1 and 20_memory.md section 1 ("No index can fall outside its range"): from a state of the
invariant every step answers a next state; the machine never stops. That a block with no enabled step answers its own
state is the model's choice (log 8). -/
def Obligations.MachineNeverStops : Prop :=
  ∀ s : State, MachineInv s → ∃ t, step s = .next t

/-- 10_state.md section 3 ("`LenBits` never wraps"): an ABSORB that raises no fault counts exactly 8 bits more. -/
def Obligations.LengthNeverWraps : Prop :=
  ∀ (s : State) (b : Byte), MachineInv s → s.mode = .absorb → s.faultCode = .none → s.lenBits ≠ Config.lenLimit →
    ∃ t, exec (.absorb b) s = .next t ∧ t.lenBits.toNat = s.lenBits.toNat + 8 ∧ t.faultCode = .none

/-! ### Messages -/

/-- 44_stream.md sections 2 and 4: with the bytes `m` absorbed, one more ABSORB leaves `m` and its byte absorbed, the block
folded if it was filled: after 1 step, or 67 with the engine's 66.
That it ends rests on the engine's being run whenever it is enabled (log 9), on the model's port (log 1). -/
def Obligations.AbsorbExtendsTheMessage : Prop :=
  ∀ (s : State) (m : List Byte) (b : Byte) (rest : List CommandWord),
    Absorbed m s → m.length + 1 < Config.messageLimit → s.commands = encode (.absorb b) :: rest → s.moves = [] →
    ∃ t, stepN (if m.length % 64 = 63 then 67 else 1) s = .next t ∧ Absorbed (m ++ [b]) t ∧
      t.commands = rest ∧ t.moves = []

/-- 44_stream.md section 4 ("NOP commands between ABSORBs also change nothing", "how the host groups its ABSORB commands in
time ... changes nothing"): a stream of ABSORB and NOP words, with the host pausing wherever it likes, leaves absorbed the
bytes of the stream in order.
That it ends rests on the engine's being run whenever it is enabled (log 9), on the model's port (log 1). -/
def Obligations.ChunkingDoesNotMatter : Prop :=
  ∀ (s : State) (m : List Byte), Absorbed m s →
    (∀ c ∈ s.commands, c = encode .nop ∨ ∃ b, c = encode (.absorb b)) →
    (∀ mv ∈ s.moves, mv = .offer ∨ mv = .pause) →
    m.length + (streamBytes s.commands).length < Config.messageLimit →
    ∃ n t, stepN n s = .next t ∧ Absorbed (m ++ streamBytes s.commands) t ∧ t.commands = []

/-- 44_stream.md section 4 ("ends with `Mode = DONE`, `FaultCode = NONE` and `H = Digest(m)`, raising no fault"): FINAL with
the bytes `m` absorbed gives the digest of `m`, after the engine's steps for one or two padding blocks.
That it ends rests on the engine's being run whenever it is enabled (log 9), on the model's port (log 1). -/
def Obligations.FinalGivesTheDigest : Prop :=
  ∀ (s : State) (m : List Byte) (rest : List CommandWord),
    Absorbed m s → s.commands = encode .final :: rest → s.moves = [] →
    ∃ t, stepN (if m.length % 64 ≤ 55 then 67 else 133) s = .next t ∧ t.final ∧ t.h = digest m ∧
      t.readDigest = .ok (digestBits (digest m)) ∧ t.lenBits.toNat = 8 * m.length ∧ t.commands = rest

/-- 44_stream.md section 4 (the correspondence): from any state that accepts a command, INIT, the bytes of a message and
FINAL end with the message's digest, with no fault, after one step for each command and 66 for each block.
That it ends rests on the engine's being run whenever it is enabled (log 9), on the model's port (log 1). -/
def Obligations.HashWordsGiveTheDigest : Prop :=
  ∀ (s : State) (m : List Byte) (rest : List CommandWord),
    m.length < Config.messageLimit → s.ready = true → s.commands = hashWords m ++ rest → s.moves = [] →
    ∃ t, stepN (m.length + 2 + 66 * blockCount m.length) s = .next t ∧ t.final ∧ t.h = digest m ∧
      t.readDigest = .ok (digestBits (digest m)) ∧ t.status = 0x0F#8 ∧ t.commands = rest

/-! ### What cannot be told apart -/

/-- 10_state.md section 5 and 41_schedule.md R124's section: hidden state outside the steps that read it has no effect. Two
states the host cannot tell apart have the same outputs and step to two such states, or stop alike. -/
def Obligations.HiddenStateHasNoEffect : Prop :=
  ∀ s s' : State, SameForHost s s' →
    s.status = s'.status ∧ s.faultCmdOut = s'.faultCmdOut ∧ s.readDigest = s'.readDigest ∧
    (∀ t, step s = .next t → ∃ t', step s' = .next t' ∧ SameForHost t t') ∧
    (∀ r, step s = .fault r → step s' = .fault r)

/-- The registers R41 leaves UNWRITTEN never show: from two idle states that agree on what R41 gives a value, and on the
host's data, every run has the same outputs. So no output depends on the values the model puts there (log 2). -/
def Obligations.UnwrittenRegistersNeverShow : Prop :=
  ∀ (n : Nat) (s s' t : State),
    s.mode = .idle → s'.mode = .idle → s.faultCode = s'.faultCode → s.faultCmd = s'.faultCmd → s.cnt = s'.cnt →
    s.lenBits = s'.lenBits → s.commands = s'.commands → s.moves = s'.moves → stepN n s = .next t →
    ∃ t', stepN n s' = .next t' ∧ t.status = t'.status ∧ t.faultCmdOut = t'.faultCmdOut ∧
      t.readDigest = t'.readDigest

/-- R212: a step of one instance reads and writes only that instance's state; steps of two instances commute. -/
def Obligations.InstancesAreIndependent : Prop :=
  ∀ (n : Nat) (i j : Fin n) (sys sys' : System n), i ≠ j →
    (systemStep i sys = .next sys' → sys'[j.val] = sys[j.val] ∧ step sys[i.val] = .next sys'[i.val]) ∧
    (systemSteps i j sys = .next sys' → systemSteps j i sys = .next sys')

/-! ### Functions -/

/-- 10_state.md section 4: each constant is the first 32 fractional bits of the square root, or the cube root, of its prime.
That it is the first 32 bits is PRESUMED (log 3): the spec itself marks that reading as general knowledge (GK2, GK3). -/
def Obligations.ConstantsAreRootFractions : Prop :=
  (∀ i : Fin 8, ∃ r : Nat, r ^ 2 ≤ Nat.nth Nat.Prime i.val * 2 ^ 64 ∧
    Nat.nth Nat.Prime i.val * 2 ^ 64 < (r + 1) ^ 2 ∧ (ivTable[i.val]).toNat = r % 2 ^ 32) ∧
  (∀ t : Fin 64, ∃ r : Nat, r ^ 3 ≤ Nat.nth Nat.Prime t.val * 2 ^ 96 ∧
    Nat.nth Nat.Prime t.val * 2 ^ 96 < (r + 1) ^ 3 ∧ (kTable[t.val]).toNat = r % 2 ^ 32)

/-- R100, R101: the bits of a rotation and of a shift. -/
def Obligations.RotationAndShiftBits : Prop :=
  ∀ (x : Word) (n i : Nat), 0 < n → n < 32 → i < 32 →
    (rotr x n).getLsbD i = x.getLsbD ((i + n) % 32) ∧
    (shr x n).getLsbD i = (if i + n ≤ 31 then x.getLsbD (i + n) else false)

/-- R103 to R106: the bits of the four sigma functions. -/
def Obligations.SigmaBits : Prop :=
  ∀ (x : Word) (i : Nat), i < 32 →
    (sigma0 x).getLsbD i =
      ((x.getLsbD ((i + 7) % 32) ^^ x.getLsbD ((i + 18) % 32)) ^^ (if i + 3 ≤ 31 then x.getLsbD (i + 3) else false)) ∧
    (sigma1 x).getLsbD i =
      ((x.getLsbD ((i + 17) % 32) ^^ x.getLsbD ((i + 19) % 32)) ^^
        (if i + 10 ≤ 31 then x.getLsbD (i + 10) else false)) ∧
    (bigSigma0 x).getLsbD i =
      ((x.getLsbD ((i + 2) % 32) ^^ x.getLsbD ((i + 13) % 32)) ^^ x.getLsbD ((i + 22) % 32)) ∧
    (bigSigma1 x).getLsbD i =
      ((x.getLsbD ((i + 6) % 32) ^^ x.getLsbD ((i + 11) % 32)) ^^ x.getLsbD ((i + 25) % 32))

/-- R107, R108: `Ch` chooses, `Maj` is the majority, bit by bit. -/
def Obligations.ChooseAndMajority : Prop :=
  ∀ (x y z : Word) (i : Nat), i < 32 →
    (ch x y z).getLsbD i = (if x.getLsbD i then y.getLsbD i else z.getLsbD i) ∧
    ((maj x y z).getLsbD i = true ↔
      2 ≤ (x.getLsbD i).toNat + (y.getLsbD i).toNat + (z.getLsbD i).toNat)

/-- 42_compression.md section 1: the new working variables, every right-hand side reading the old ones; and, which is the
spec's own inference, the source's sequence of assignments gives the same. -/
def Obligations.RoundFormula : Prop :=
  ∀ (a b c d e f g h kt wt : Word),
    let t1 := h + bigSigma1 e + ch e f g + kt + wt
    let t2 := bigSigma0 a + maj a b c
    roundFn #v[a, b, c, d, e, f, g, h] kt wt = #v[t1 + t2, a, b, c, d + t1, e, f, g] ∧
    roundInPlace #v[a, b, c, d, e, f, g, h] kt wt = #v[t1 + t2, a, b, c, d + t1, e, f, g]

/-- R121, R122: `Expand(B)` is the one schedule that loads the block's big-endian words and then follows the recurrence. -/
def Obligations.ExpandIsTheSchedule : Prop :=
  ∀ (B : Block) (S : Words64), S = expand B ↔
    (∀ t : Fin 16, S[t.val] = be32 B[4 * t.val] B[4 * t.val + 1] B[4 * t.val + 2] B[4 * t.val + 3]) ∧
    (∀ t : Fin 48, S[t.val + 16] = sigma1 S[t.val + 14] + S[t.val + 9] + sigma0 S[t.val + 1] + S[t.val])

/-- 41_schedule.md's last rule ("word by word in round `t`, from a 16-word window ... Every such choice gives the same"): the
window's oldest word in round `t` is `S[t]`. -/
def Obligations.WindowScheduleAgrees : Prop :=
  ∀ (B : Block) (t : Fin 64), (windowAt B t.val)[0] = (expand B)[t.val]

/-- 43_padding.md (the layouts derived from R151): the length and the bytes of `Pad(tail, L)`, in one block when the tail has
at most 55 bytes and in two when it has 56 to 63. -/
def Obligations.PaddingLayout : Prop :=
  ∀ (bytes : List Byte) (L : BitVec 64), bytes.length ≤ 63 →
    (pad bytes L).take bytes.length = bytes ∧ (pad bytes L)[bytes.length]? = some 0x80#8 ∧
    (bytes.length ≤ 55 → (pad bytes L).length = 64 ∧ (pad bytes L).drop 56 = be64bytes L ∧
      ∀ i, bytes.length < i → i < 56 → (pad bytes L)[i]? = some 0x00#8) ∧
    (56 ≤ bytes.length → (pad bytes L).length = 128 ∧ (pad bytes L).drop 120 = be64bytes L ∧
      ∀ i, bytes.length < i → i < 120 → (pad bytes L)[i]? = some 0x00#8)

/-- R80, R82: the value of a big-endian word, and the bytes of a 64-bit value, most significant first. -/
def Obligations.BigEndianValues : Prop :=
  (∀ b0 b1 b2 b3 : Byte,
    be32 b0 b1 b2 b3 = b0.setWidth 32 <<< 24 ||| b1.setWidth 32 <<< 16 ||| b2.setWidth 32 <<< 8 ||| b3.setWidth 32) ∧
  (∀ v : BitVec 64, (be64bytes v).length = 8 ∧
    ∀ j : Fin 8, (be64bytes v)[j.val]? = some (BitVec.ofNat 8 (v.toNat / 256 ^ (7 - j.val))))

/-- R83: word `i` of `DIGEST` and its bytes, most significant first. -/
def Obligations.DigestOutputLayout : Prop :=
  ∀ h : Words8,
    (∀ i : Fin 8, (digestBits h).extractLsb' (224 - 32 * i.val) 32 = h[i.val]) ∧
    (∀ j : Fin 32, digestByte h j = (digestBits h).extractLsb' (248 - 8 * j.val) 8)

/-- R84: `Hex(H)` has 64 characters of the lowercase alphabet, character `j` the digit of nibble `j`, and it is the words'
8 digits one after another. -/
def Obligations.HexRendering : Prop :=
  ∀ h : Words8,
    (hexDigest h).length = 64 ∧
    (∀ j : Fin 64, (hexDigest h)[j.val]? =
      ['0', '1', '2', '3', '4', '5', '6', '7', '8', '9', 'a', 'b', 'c', 'd', 'e', 'f'][
        ((digestBits h).extractLsb' (252 - 4 * j.val) 4).toNat]?) ∧
    hexDigest h = (List.finRange 8).flatMap fun i =>
      (List.range 8).map fun j => hexDigit ((h[i.val]).extractLsb' (28 - 4 * j) 4)

/-! ### Notation -/

/-- R78: what the pseudo-commands expand to. -/
def Obligations.PseudoCommandsExpand : Prop :=
  (∀ text : List Byte,
    (AsmLine.absorbs text).words.map decode = text.map (fun b => .legal (.absorb b)) ∧
    (AsmLine.absorbx text).words.map decode = text.map (fun b => .legal (.absorb b)) ∧
    (AsmLine.hash text).words.map decode =
      .legal .init :: (text.map (fun b => .legal (.absorb b)) ++ [.legal .final])) ∧
  (∀ (n : Nat) (b : Byte), (AsmLine.absorbn n b).words = List.replicate n (0x2000#16 + b.setWidth 16))

/-- 30_encoding.md section 4: the assembly of a listing line, assembled, is the word of that line, for all 2^16 words. -/
def Obligations.ListingAssemblesToItsWord : Prop :=
  ∀ c : CommandWord, assemble [(listing c).drop 6] = some [c] ∧
    digitsValue 16 0 ((listing c).take 4) = some c.toNat

/-- 30_encoding.md section 4 (the syntax table): every spelling of ABSORB's operand, `0x` and any number of hex digits, each
in either case, decimal digits, or a character literal of any ASCII character, assembles to ABSORB of that byte, with a
comment after it or none; and a raw word of any number of hex digits, with `0x` or without it, to that word. Leading zeros
and either case are the model's choice (log 12), and so is reading a bare raw word as hex (log 14). -/
def Obligations.OperandFormsAssemble : Prop :=
  ∀ rest : List Char, endsLine rest →
    (∀ ds : List (Fin 16 × Bool), ds ≠ [] → hexNumber ds < 256 →
      assemble ["ABSORB 0x".toList ++ hexText ds ++ rest] =
        some [encode (.absorb (BitVec.ofNat 8 (hexNumber ds)))]) ∧
    (∀ ds : List (Fin 10), ds ≠ [] → decimalNumber ds < 256 →
      assemble ["absorb ".toList ++ decimalText ds ++ rest] =
        some [encode (.absorb (BitVec.ofNat 8 (decimalNumber ds)))]) ∧
    (∀ b : Byte, b.toNat < 128 →
      assemble ["ABSORB '".toList ++ [Char.ofNat b.toNat] ++ "'".toList ++ rest] = some [encode (.absorb b)]) ∧
    (∀ ds : List (Fin 16 × Bool), ds ≠ [] → hexNumber ds < 65536 →
      assemble [".word ".toList ++ hexText ds ++ rest] = some [BitVec.ofNat 16 (hexNumber ds)] ∧
      assemble [".word 0x".toList ++ hexText ds ++ rest] = some [BitVec.ofNat 16 (hexNumber ds)])

/-- 30_encoding.md section 4 (the pseudo-commands): the text of ABSORBS and HASH, any ASCII characters but the quote, `;` and
ticks among them, assembles to the words of its bytes in order. ASCII is the spec's reading from general knowledge
(log 10); that `;` in a string starts no comment is the model's choice (log 12). -/
def Obligations.StringOperandsAssemble : Prop :=
  ∀ text : List Byte, (∀ b ∈ text, b.toNat < 128 ∧ b.toNat ≠ 34) →
    assemble ["ABSORBS \"".toList ++ text.map (fun b => Char.ofNat b.toNat) ++ "\"".toList] =
      some (text.map fun b => 0x2000#16 + b.setWidth 16) ∧
    assemble ["HASH \"".toList ++ text.map (fun b => Char.ofNat b.toNat) ++ "\"".toList] =
      some (0x1000#16 :: (text.map (fun b => 0x2000#16 + b.setWidth 16) ++ [0x3000#16]))
end

