-- ==== Sys2Proof/Laws/Data.lean ====
section
/-! SUPPORT. The small lemmas of the encodings, the padding, the schedule and the rounds. -/

namespace Sys2Proof

/-! ### Command words and their fields -/

theorem opField_toNat (c : CommandWord) : (opField c).toNat = c.toNat / 4096 := by
  have := c.isLt
  simp [opField, BitVec.extractLsb'_toNat, Nat.shiftRight_eq_div_pow]; omega

theorem rsvField_toNat (c : CommandWord) : (rsvField c).toNat = c.toNat / 256 % 16 := by
  simp [rsvField, BitVec.extractLsb'_toNat, Nat.shiftRight_eq_div_pow]

theorem immField_toNat (c : CommandWord) : (immField c).toNat = c.toNat % 256 := by
  simp [immField, BitVec.extractLsb'_toNat]

theorem commandWord_toNat (op rsv : BitVec 4) (imm : Byte) :
    (commandWord op rsv imm).toNat = op.toNat * 4096 + rsv.toNat * 256 + imm.toNat := by
  have h2 := rsv.isLt
  have h3 := imm.isLt
  simp only [commandWord, BitVec.toNat_append]
  rw [← Nat.shiftLeft_add_eq_or_of_lt h3, ← Nat.shiftLeft_add_eq_or_of_lt h2]
  simp only [Nat.shiftLeft_eq]; omega

/-- A word is made of its three fields (R70). -/
theorem commandWord_fields (c : CommandWord) : commandWord (opField c) (rsvField c) (immField c) = c := by
  apply BitVec.eq_of_toNat_eq
  have := opField_toNat c; have := rsvField_toNat c; have := immField_toNat c
  rw [commandWord_toNat]; omega

@[simp] theorem opField_commandWord (op rsv : BitVec 4) (imm : Byte) : opField (commandWord op rsv imm) = op := by
  apply BitVec.eq_of_toNat_eq
  have := rsv.isLt; have := imm.isLt
  rw [opField_toNat, commandWord_toNat]; omega

@[simp] theorem rsvField_commandWord (op rsv : BitVec 4) (imm : Byte) :
    rsvField (commandWord op rsv imm) = rsv := by
  apply BitVec.eq_of_toNat_eq
  have := rsv.isLt; have := imm.isLt
  rw [rsvField_toNat, commandWord_toNat]; omega

@[simp] theorem immField_commandWord (op rsv : BitVec 4) (imm : Byte) :
    immField (commandWord op rsv imm) = imm := by
  apply BitVec.eq_of_toNat_eq
  have := rsv.isLt; have := imm.isLt
  rw [immField_toNat, commandWord_toNat]; omega

namespace Machine

/-! ### Padding -/

@[simp] theorem be64bytes_length (v : BitVec 64) : (be64bytes v).length = 8 := by simp [be64bytes]

/-- The two readings of `z` that R151 gives. -/
theorem zeroBytes_eq {c : Nat} (h : c ≤ 63) : zeroBytes c = if c ≤ 55 then 55 - c else 119 - c := by
  unfold zeroBytes; split <;> omega

@[simp] theorem messageTail_length (s : State) : (messageTail s).length = s.cnt.val := by simp [messageTail]

theorem blockAt_getElem (bytes : List Byte) (j : Nat) (i : Fin 64) :
    (blockAt bytes j)[i.val] = bytes.getD (64 * j + i.val) 0#8 := by simp [blockAt]

/-! ### Rounds and blocks -/

@[simp] theorem roundsUpTo_zero (S : Words64) (v : Words8) : roundsUpTo S v 0 = v := by simp [roundsUpTo]

theorem roundsUpTo_succ (S : Words64) (v : Words8) {n : Nat} (h : n < 64) :
    roundsUpTo S v (n + 1) = roundFn (roundsUpTo S v n) kTable[n] S[n] := by
  unfold roundsUpTo
  rw [List.take_add_one]
  simp [h]

@[simp] theorem compressBlocks_zero (h : Words8) (bytes : List Byte) : compressBlocks h bytes 0 = h := by
  simp [compressBlocks]

theorem compressBlocks_succ (h : Words8) (bytes : List Byte) (n : Nat) :
    compressBlocks h bytes (n + 1) = compress (compressBlocks h bytes n) (blockAt bytes n) := by
  simp [compressBlocks, List.range_succ]

end Machine

end Sys2Proof
end

