-- ==== Sys2Proof/Laws/State.lean ====
section
/-! SUPPORT. One lemma for each field of State after each write, so that no proof unfolds a record update. -/

namespace Sys2Proof.Machine

variable (s : State)

@[simp] theorem State.setH_h (x : Words8) : (s.setH x).h = x := rfl
@[simp] theorem State.setH_v (x : Words8) : (s.setH x).v = s.v := rfl
@[simp] theorem State.setH_w (x : Words8) : (s.setH x).w = s.w := rfl
@[simp] theorem State.setH_t (x : Words8) : (s.setH x).t = s.t := rfl
@[simp] theorem State.setH_phase (x : Words8) : (s.setH x).phase = s.phase := rfl
@[simp] theorem State.setH_blk (x : Words8) : (s.setH x).blk = s.blk := rfl
@[simp] theorem State.setH_buf (x : Words8) : (s.setH x).buf = s.buf := rfl
@[simp] theorem State.setH_cnt (x : Words8) : (s.setH x).cnt = s.cnt := rfl
@[simp] theorem State.setH_lenBits (x : Words8) : (s.setH x).lenBits = s.lenBits := rfl
@[simp] theorem State.setH_after (x : Words8) : (s.setH x).after = s.after := rfl
@[simp] theorem State.setH_mode (x : Words8) : (s.setH x).mode = s.mode := rfl
@[simp] theorem State.setH_faultCode (x : Words8) : (s.setH x).faultCode = s.faultCode := rfl
@[simp] theorem State.setH_faultCmd (x : Words8) : (s.setH x).faultCmd = s.faultCmd := rfl
@[simp] theorem State.setH_written (x : Words8) : (s.setH x).written = { s.written with h := true } := rfl
@[simp] theorem State.setH_commands (x : Words8) : (s.setH x).commands = s.commands := rfl
@[simp] theorem State.setH_moves (x : Words8) : (s.setH x).moves = s.moves := rfl

@[simp] theorem State.setV_h (x : Words8) : (s.setV x).h = s.h := rfl
@[simp] theorem State.setV_v (x : Words8) : (s.setV x).v = x := rfl
@[simp] theorem State.setV_w (x : Words8) : (s.setV x).w = s.w := rfl
@[simp] theorem State.setV_t (x : Words8) : (s.setV x).t = s.t := rfl
@[simp] theorem State.setV_phase (x : Words8) : (s.setV x).phase = s.phase := rfl
@[simp] theorem State.setV_blk (x : Words8) : (s.setV x).blk = s.blk := rfl
@[simp] theorem State.setV_buf (x : Words8) : (s.setV x).buf = s.buf := rfl
@[simp] theorem State.setV_cnt (x : Words8) : (s.setV x).cnt = s.cnt := rfl
@[simp] theorem State.setV_lenBits (x : Words8) : (s.setV x).lenBits = s.lenBits := rfl
@[simp] theorem State.setV_after (x : Words8) : (s.setV x).after = s.after := rfl
@[simp] theorem State.setV_mode (x : Words8) : (s.setV x).mode = s.mode := rfl
@[simp] theorem State.setV_faultCode (x : Words8) : (s.setV x).faultCode = s.faultCode := rfl
@[simp] theorem State.setV_faultCmd (x : Words8) : (s.setV x).faultCmd = s.faultCmd := rfl
@[simp] theorem State.setV_written (x : Words8) : (s.setV x).written = { s.written with v := true } := rfl
@[simp] theorem State.setV_commands (x : Words8) : (s.setV x).commands = s.commands := rfl
@[simp] theorem State.setV_moves (x : Words8) : (s.setV x).moves = s.moves := rfl

@[simp] theorem State.setW_h (x : Words64) : (s.setW x).h = s.h := rfl
@[simp] theorem State.setW_v (x : Words64) : (s.setW x).v = s.v := rfl
@[simp] theorem State.setW_w (x : Words64) : (s.setW x).w = x := rfl
@[simp] theorem State.setW_t (x : Words64) : (s.setW x).t = s.t := rfl
@[simp] theorem State.setW_phase (x : Words64) : (s.setW x).phase = s.phase := rfl
@[simp] theorem State.setW_blk (x : Words64) : (s.setW x).blk = s.blk := rfl
@[simp] theorem State.setW_buf (x : Words64) : (s.setW x).buf = s.buf := rfl
@[simp] theorem State.setW_cnt (x : Words64) : (s.setW x).cnt = s.cnt := rfl
@[simp] theorem State.setW_lenBits (x : Words64) : (s.setW x).lenBits = s.lenBits := rfl
@[simp] theorem State.setW_after (x : Words64) : (s.setW x).after = s.after := rfl
@[simp] theorem State.setW_mode (x : Words64) : (s.setW x).mode = s.mode := rfl
@[simp] theorem State.setW_faultCode (x : Words64) : (s.setW x).faultCode = s.faultCode := rfl
@[simp] theorem State.setW_faultCmd (x : Words64) : (s.setW x).faultCmd = s.faultCmd := rfl
@[simp] theorem State.setW_written (x : Words64) : (s.setW x).written = { s.written with w := true } := rfl
@[simp] theorem State.setW_commands (x : Words64) : (s.setW x).commands = s.commands := rfl
@[simp] theorem State.setW_moves (x : Words64) : (s.setW x).moves = s.moves := rfl

@[simp] theorem State.setT_h (x : Fin 65) : (s.setT x).h = s.h := rfl
@[simp] theorem State.setT_v (x : Fin 65) : (s.setT x).v = s.v := rfl
@[simp] theorem State.setT_w (x : Fin 65) : (s.setT x).w = s.w := rfl
@[simp] theorem State.setT_t (x : Fin 65) : (s.setT x).t = x := rfl
@[simp] theorem State.setT_phase (x : Fin 65) : (s.setT x).phase = s.phase := rfl
@[simp] theorem State.setT_blk (x : Fin 65) : (s.setT x).blk = s.blk := rfl
@[simp] theorem State.setT_buf (x : Fin 65) : (s.setT x).buf = s.buf := rfl
@[simp] theorem State.setT_cnt (x : Fin 65) : (s.setT x).cnt = s.cnt := rfl
@[simp] theorem State.setT_lenBits (x : Fin 65) : (s.setT x).lenBits = s.lenBits := rfl
@[simp] theorem State.setT_after (x : Fin 65) : (s.setT x).after = s.after := rfl
@[simp] theorem State.setT_mode (x : Fin 65) : (s.setT x).mode = s.mode := rfl
@[simp] theorem State.setT_faultCode (x : Fin 65) : (s.setT x).faultCode = s.faultCode := rfl
@[simp] theorem State.setT_faultCmd (x : Fin 65) : (s.setT x).faultCmd = s.faultCmd := rfl
@[simp] theorem State.setT_written (x : Fin 65) : (s.setT x).written = { s.written with t := true } := rfl
@[simp] theorem State.setT_commands (x : Fin 65) : (s.setT x).commands = s.commands := rfl
@[simp] theorem State.setT_moves (x : Fin 65) : (s.setT x).moves = s.moves := rfl

@[simp] theorem State.setPhase_h (x : Phase) : (s.setPhase x).h = s.h := rfl
@[simp] theorem State.setPhase_v (x : Phase) : (s.setPhase x).v = s.v := rfl
@[simp] theorem State.setPhase_w (x : Phase) : (s.setPhase x).w = s.w := rfl
@[simp] theorem State.setPhase_t (x : Phase) : (s.setPhase x).t = s.t := rfl
@[simp] theorem State.setPhase_phase (x : Phase) : (s.setPhase x).phase = x := rfl
@[simp] theorem State.setPhase_blk (x : Phase) : (s.setPhase x).blk = s.blk := rfl
@[simp] theorem State.setPhase_buf (x : Phase) : (s.setPhase x).buf = s.buf := rfl
@[simp] theorem State.setPhase_cnt (x : Phase) : (s.setPhase x).cnt = s.cnt := rfl
@[simp] theorem State.setPhase_lenBits (x : Phase) : (s.setPhase x).lenBits = s.lenBits := rfl
@[simp] theorem State.setPhase_after (x : Phase) : (s.setPhase x).after = s.after := rfl
@[simp] theorem State.setPhase_mode (x : Phase) : (s.setPhase x).mode = s.mode := rfl
@[simp] theorem State.setPhase_faultCode (x : Phase) : (s.setPhase x).faultCode = s.faultCode := rfl
@[simp] theorem State.setPhase_faultCmd (x : Phase) : (s.setPhase x).faultCmd = s.faultCmd := rfl
@[simp] theorem State.setPhase_written (x : Phase) : (s.setPhase x).written = { s.written with phase := true } := rfl
@[simp] theorem State.setPhase_commands (x : Phase) : (s.setPhase x).commands = s.commands := rfl
@[simp] theorem State.setPhase_moves (x : Phase) : (s.setPhase x).moves = s.moves := rfl

@[simp] theorem State.setBlk_h (x : Block) : (s.setBlk x).h = s.h := rfl
@[simp] theorem State.setBlk_v (x : Block) : (s.setBlk x).v = s.v := rfl
@[simp] theorem State.setBlk_w (x : Block) : (s.setBlk x).w = s.w := rfl
@[simp] theorem State.setBlk_t (x : Block) : (s.setBlk x).t = s.t := rfl
@[simp] theorem State.setBlk_phase (x : Block) : (s.setBlk x).phase = s.phase := rfl
@[simp] theorem State.setBlk_blk (x : Block) : (s.setBlk x).blk = x := rfl
@[simp] theorem State.setBlk_buf (x : Block) : (s.setBlk x).buf = s.buf := rfl
@[simp] theorem State.setBlk_cnt (x : Block) : (s.setBlk x).cnt = s.cnt := rfl
@[simp] theorem State.setBlk_lenBits (x : Block) : (s.setBlk x).lenBits = s.lenBits := rfl
@[simp] theorem State.setBlk_after (x : Block) : (s.setBlk x).after = s.after := rfl
@[simp] theorem State.setBlk_mode (x : Block) : (s.setBlk x).mode = s.mode := rfl
@[simp] theorem State.setBlk_faultCode (x : Block) : (s.setBlk x).faultCode = s.faultCode := rfl
@[simp] theorem State.setBlk_faultCmd (x : Block) : (s.setBlk x).faultCmd = s.faultCmd := rfl
@[simp] theorem State.setBlk_written (x : Block) : (s.setBlk x).written = { s.written with blk := true } := rfl
@[simp] theorem State.setBlk_commands (x : Block) : (s.setBlk x).commands = s.commands := rfl
@[simp] theorem State.setBlk_moves (x : Block) : (s.setBlk x).moves = s.moves := rfl

@[simp] theorem State.setBufByte_h (i : Fin 64) (b : Byte) : (s.setBufByte i b).h = s.h := rfl
@[simp] theorem State.setBufByte_v (i : Fin 64) (b : Byte) : (s.setBufByte i b).v = s.v := rfl
@[simp] theorem State.setBufByte_w (i : Fin 64) (b : Byte) : (s.setBufByte i b).w = s.w := rfl
@[simp] theorem State.setBufByte_t (i : Fin 64) (b : Byte) : (s.setBufByte i b).t = s.t := rfl
@[simp] theorem State.setBufByte_phase (i : Fin 64) (b : Byte) : (s.setBufByte i b).phase = s.phase := rfl
@[simp] theorem State.setBufByte_blk (i : Fin 64) (b : Byte) : (s.setBufByte i b).blk = s.blk := rfl
@[simp] theorem State.setBufByte_buf (i : Fin 64) (b : Byte) : (s.setBufByte i b).buf = s.buf.set i.val b := rfl
@[simp] theorem State.setBufByte_cnt (i : Fin 64) (b : Byte) : (s.setBufByte i b).cnt = s.cnt := rfl
@[simp] theorem State.setBufByte_lenBits (i : Fin 64) (b : Byte) : (s.setBufByte i b).lenBits = s.lenBits := rfl
@[simp] theorem State.setBufByte_after (i : Fin 64) (b : Byte) : (s.setBufByte i b).after = s.after := rfl
@[simp] theorem State.setBufByte_mode (i : Fin 64) (b : Byte) : (s.setBufByte i b).mode = s.mode := rfl
@[simp] theorem State.setBufByte_faultCode (i : Fin 64) (b : Byte) : (s.setBufByte i b).faultCode = s.faultCode := rfl
@[simp] theorem State.setBufByte_faultCmd (i : Fin 64) (b : Byte) : (s.setBufByte i b).faultCmd = s.faultCmd := rfl
@[simp] theorem State.setBufByte_written (i : Fin 64) (b : Byte) : (s.setBufByte i b).written = { s.written with buf := s.written.buf.set i.val true } := rfl
@[simp] theorem State.setBufByte_commands (i : Fin 64) (b : Byte) : (s.setBufByte i b).commands = s.commands := rfl
@[simp] theorem State.setBufByte_moves (i : Fin 64) (b : Byte) : (s.setBufByte i b).moves = s.moves := rfl

@[simp] theorem State.setBuf_h (x : Block) : (s.setBuf x).h = s.h := rfl
@[simp] theorem State.setBuf_v (x : Block) : (s.setBuf x).v = s.v := rfl
@[simp] theorem State.setBuf_w (x : Block) : (s.setBuf x).w = s.w := rfl
@[simp] theorem State.setBuf_t (x : Block) : (s.setBuf x).t = s.t := rfl
@[simp] theorem State.setBuf_phase (x : Block) : (s.setBuf x).phase = s.phase := rfl
@[simp] theorem State.setBuf_blk (x : Block) : (s.setBuf x).blk = s.blk := rfl
@[simp] theorem State.setBuf_buf (x : Block) : (s.setBuf x).buf = x := rfl
@[simp] theorem State.setBuf_cnt (x : Block) : (s.setBuf x).cnt = s.cnt := rfl
@[simp] theorem State.setBuf_lenBits (x : Block) : (s.setBuf x).lenBits = s.lenBits := rfl
@[simp] theorem State.setBuf_after (x : Block) : (s.setBuf x).after = s.after := rfl
@[simp] theorem State.setBuf_mode (x : Block) : (s.setBuf x).mode = s.mode := rfl
@[simp] theorem State.setBuf_faultCode (x : Block) : (s.setBuf x).faultCode = s.faultCode := rfl
@[simp] theorem State.setBuf_faultCmd (x : Block) : (s.setBuf x).faultCmd = s.faultCmd := rfl
@[simp] theorem State.setBuf_written (x : Block) : (s.setBuf x).written = { s.written with buf := Vector.replicate 64 true } := rfl
@[simp] theorem State.setBuf_commands (x : Block) : (s.setBuf x).commands = s.commands := rfl
@[simp] theorem State.setBuf_moves (x : Block) : (s.setBuf x).moves = s.moves := rfl

@[simp] theorem State.setCnt_h (x : Fin 64) : (s.setCnt x).h = s.h := rfl
@[simp] theorem State.setCnt_v (x : Fin 64) : (s.setCnt x).v = s.v := rfl
@[simp] theorem State.setCnt_w (x : Fin 64) : (s.setCnt x).w = s.w := rfl
@[simp] theorem State.setCnt_t (x : Fin 64) : (s.setCnt x).t = s.t := rfl
@[simp] theorem State.setCnt_phase (x : Fin 64) : (s.setCnt x).phase = s.phase := rfl
@[simp] theorem State.setCnt_blk (x : Fin 64) : (s.setCnt x).blk = s.blk := rfl
@[simp] theorem State.setCnt_buf (x : Fin 64) : (s.setCnt x).buf = s.buf := rfl
@[simp] theorem State.setCnt_cnt (x : Fin 64) : (s.setCnt x).cnt = x := rfl
@[simp] theorem State.setCnt_lenBits (x : Fin 64) : (s.setCnt x).lenBits = s.lenBits := rfl
@[simp] theorem State.setCnt_after (x : Fin 64) : (s.setCnt x).after = s.after := rfl
@[simp] theorem State.setCnt_mode (x : Fin 64) : (s.setCnt x).mode = s.mode := rfl
@[simp] theorem State.setCnt_faultCode (x : Fin 64) : (s.setCnt x).faultCode = s.faultCode := rfl
@[simp] theorem State.setCnt_faultCmd (x : Fin 64) : (s.setCnt x).faultCmd = s.faultCmd := rfl
@[simp] theorem State.setCnt_written (x : Fin 64) : (s.setCnt x).written = s.written := rfl
@[simp] theorem State.setCnt_commands (x : Fin 64) : (s.setCnt x).commands = s.commands := rfl
@[simp] theorem State.setCnt_moves (x : Fin 64) : (s.setCnt x).moves = s.moves := rfl

@[simp] theorem State.setLenBits_h (x : BitVec 64) : (s.setLenBits x).h = s.h := rfl
@[simp] theorem State.setLenBits_v (x : BitVec 64) : (s.setLenBits x).v = s.v := rfl
@[simp] theorem State.setLenBits_w (x : BitVec 64) : (s.setLenBits x).w = s.w := rfl
@[simp] theorem State.setLenBits_t (x : BitVec 64) : (s.setLenBits x).t = s.t := rfl
@[simp] theorem State.setLenBits_phase (x : BitVec 64) : (s.setLenBits x).phase = s.phase := rfl
@[simp] theorem State.setLenBits_blk (x : BitVec 64) : (s.setLenBits x).blk = s.blk := rfl
@[simp] theorem State.setLenBits_buf (x : BitVec 64) : (s.setLenBits x).buf = s.buf := rfl
@[simp] theorem State.setLenBits_cnt (x : BitVec 64) : (s.setLenBits x).cnt = s.cnt := rfl
@[simp] theorem State.setLenBits_lenBits (x : BitVec 64) : (s.setLenBits x).lenBits = x := rfl
@[simp] theorem State.setLenBits_after (x : BitVec 64) : (s.setLenBits x).after = s.after := rfl
@[simp] theorem State.setLenBits_mode (x : BitVec 64) : (s.setLenBits x).mode = s.mode := rfl
@[simp] theorem State.setLenBits_faultCode (x : BitVec 64) : (s.setLenBits x).faultCode = s.faultCode := rfl
@[simp] theorem State.setLenBits_faultCmd (x : BitVec 64) : (s.setLenBits x).faultCmd = s.faultCmd := rfl
@[simp] theorem State.setLenBits_written (x : BitVec 64) : (s.setLenBits x).written = s.written := rfl
@[simp] theorem State.setLenBits_commands (x : BitVec 64) : (s.setLenBits x).commands = s.commands := rfl
@[simp] theorem State.setLenBits_moves (x : BitVec 64) : (s.setLenBits x).moves = s.moves := rfl

@[simp] theorem State.setAfter_h (x : After) : (s.setAfter x).h = s.h := rfl
@[simp] theorem State.setAfter_v (x : After) : (s.setAfter x).v = s.v := rfl
@[simp] theorem State.setAfter_w (x : After) : (s.setAfter x).w = s.w := rfl
@[simp] theorem State.setAfter_t (x : After) : (s.setAfter x).t = s.t := rfl
@[simp] theorem State.setAfter_phase (x : After) : (s.setAfter x).phase = s.phase := rfl
@[simp] theorem State.setAfter_blk (x : After) : (s.setAfter x).blk = s.blk := rfl
@[simp] theorem State.setAfter_buf (x : After) : (s.setAfter x).buf = s.buf := rfl
@[simp] theorem State.setAfter_cnt (x : After) : (s.setAfter x).cnt = s.cnt := rfl
@[simp] theorem State.setAfter_lenBits (x : After) : (s.setAfter x).lenBits = s.lenBits := rfl
@[simp] theorem State.setAfter_after (x : After) : (s.setAfter x).after = x := rfl
@[simp] theorem State.setAfter_mode (x : After) : (s.setAfter x).mode = s.mode := rfl
@[simp] theorem State.setAfter_faultCode (x : After) : (s.setAfter x).faultCode = s.faultCode := rfl
@[simp] theorem State.setAfter_faultCmd (x : After) : (s.setAfter x).faultCmd = s.faultCmd := rfl
@[simp] theorem State.setAfter_written (x : After) : (s.setAfter x).written = { s.written with after := true } := rfl
@[simp] theorem State.setAfter_commands (x : After) : (s.setAfter x).commands = s.commands := rfl
@[simp] theorem State.setAfter_moves (x : After) : (s.setAfter x).moves = s.moves := rfl

@[simp] theorem State.setMode_h (x : Mode) : (s.setMode x).h = s.h := rfl
@[simp] theorem State.setMode_v (x : Mode) : (s.setMode x).v = s.v := rfl
@[simp] theorem State.setMode_w (x : Mode) : (s.setMode x).w = s.w := rfl
@[simp] theorem State.setMode_t (x : Mode) : (s.setMode x).t = s.t := rfl
@[simp] theorem State.setMode_phase (x : Mode) : (s.setMode x).phase = s.phase := rfl
@[simp] theorem State.setMode_blk (x : Mode) : (s.setMode x).blk = s.blk := rfl
@[simp] theorem State.setMode_buf (x : Mode) : (s.setMode x).buf = s.buf := rfl
@[simp] theorem State.setMode_cnt (x : Mode) : (s.setMode x).cnt = s.cnt := rfl
@[simp] theorem State.setMode_lenBits (x : Mode) : (s.setMode x).lenBits = s.lenBits := rfl
@[simp] theorem State.setMode_after (x : Mode) : (s.setMode x).after = s.after := rfl
@[simp] theorem State.setMode_mode (x : Mode) : (s.setMode x).mode = x := rfl
@[simp] theorem State.setMode_faultCode (x : Mode) : (s.setMode x).faultCode = s.faultCode := rfl
@[simp] theorem State.setMode_faultCmd (x : Mode) : (s.setMode x).faultCmd = s.faultCmd := rfl
@[simp] theorem State.setMode_written (x : Mode) : (s.setMode x).written = s.written := rfl
@[simp] theorem State.setMode_commands (x : Mode) : (s.setMode x).commands = s.commands := rfl
@[simp] theorem State.setMode_moves (x : Mode) : (s.setMode x).moves = s.moves := rfl

@[simp] theorem State.setCommands_h (x : List CommandWord) : (s.setCommands x).h = s.h := rfl
@[simp] theorem State.setCommands_v (x : List CommandWord) : (s.setCommands x).v = s.v := rfl
@[simp] theorem State.setCommands_w (x : List CommandWord) : (s.setCommands x).w = s.w := rfl
@[simp] theorem State.setCommands_t (x : List CommandWord) : (s.setCommands x).t = s.t := rfl
@[simp] theorem State.setCommands_phase (x : List CommandWord) : (s.setCommands x).phase = s.phase := rfl
@[simp] theorem State.setCommands_blk (x : List CommandWord) : (s.setCommands x).blk = s.blk := rfl
@[simp] theorem State.setCommands_buf (x : List CommandWord) : (s.setCommands x).buf = s.buf := rfl
@[simp] theorem State.setCommands_cnt (x : List CommandWord) : (s.setCommands x).cnt = s.cnt := rfl
@[simp] theorem State.setCommands_lenBits (x : List CommandWord) : (s.setCommands x).lenBits = s.lenBits := rfl
@[simp] theorem State.setCommands_after (x : List CommandWord) : (s.setCommands x).after = s.after := rfl
@[simp] theorem State.setCommands_mode (x : List CommandWord) : (s.setCommands x).mode = s.mode := rfl
@[simp] theorem State.setCommands_faultCode (x : List CommandWord) : (s.setCommands x).faultCode = s.faultCode := rfl
@[simp] theorem State.setCommands_faultCmd (x : List CommandWord) : (s.setCommands x).faultCmd = s.faultCmd := rfl
@[simp] theorem State.setCommands_written (x : List CommandWord) : (s.setCommands x).written = s.written := rfl
@[simp] theorem State.setCommands_commands (x : List CommandWord) : (s.setCommands x).commands = x := rfl
@[simp] theorem State.setCommands_moves (x : List CommandWord) : (s.setCommands x).moves = s.moves := rfl

@[simp] theorem State.setMoves_h (x : List HostMove) : (s.setMoves x).h = s.h := rfl
@[simp] theorem State.setMoves_v (x : List HostMove) : (s.setMoves x).v = s.v := rfl
@[simp] theorem State.setMoves_w (x : List HostMove) : (s.setMoves x).w = s.w := rfl
@[simp] theorem State.setMoves_t (x : List HostMove) : (s.setMoves x).t = s.t := rfl
@[simp] theorem State.setMoves_phase (x : List HostMove) : (s.setMoves x).phase = s.phase := rfl
@[simp] theorem State.setMoves_blk (x : List HostMove) : (s.setMoves x).blk = s.blk := rfl
@[simp] theorem State.setMoves_buf (x : List HostMove) : (s.setMoves x).buf = s.buf := rfl
@[simp] theorem State.setMoves_cnt (x : List HostMove) : (s.setMoves x).cnt = s.cnt := rfl
@[simp] theorem State.setMoves_lenBits (x : List HostMove) : (s.setMoves x).lenBits = s.lenBits := rfl
@[simp] theorem State.setMoves_after (x : List HostMove) : (s.setMoves x).after = s.after := rfl
@[simp] theorem State.setMoves_mode (x : List HostMove) : (s.setMoves x).mode = s.mode := rfl
@[simp] theorem State.setMoves_faultCode (x : List HostMove) : (s.setMoves x).faultCode = s.faultCode := rfl
@[simp] theorem State.setMoves_faultCmd (x : List HostMove) : (s.setMoves x).faultCmd = s.faultCmd := rfl
@[simp] theorem State.setMoves_written (x : List HostMove) : (s.setMoves x).written = s.written := rfl
@[simp] theorem State.setMoves_commands (x : List HostMove) : (s.setMoves x).commands = s.commands := rfl
@[simp] theorem State.setMoves_moves (x : List HostMove) : (s.setMoves x).moves = x := rfl

@[simp] theorem raiseFault_h (code : FaultCode) (c : CommandWord) : (raiseFault code c s).h = s.h := rfl
@[simp] theorem raiseFault_v (code : FaultCode) (c : CommandWord) : (raiseFault code c s).v = s.v := rfl
@[simp] theorem raiseFault_w (code : FaultCode) (c : CommandWord) : (raiseFault code c s).w = s.w := rfl
@[simp] theorem raiseFault_t (code : FaultCode) (c : CommandWord) : (raiseFault code c s).t = s.t := rfl
@[simp] theorem raiseFault_phase (code : FaultCode) (c : CommandWord) : (raiseFault code c s).phase = s.phase := rfl
@[simp] theorem raiseFault_blk (code : FaultCode) (c : CommandWord) : (raiseFault code c s).blk = s.blk := rfl
@[simp] theorem raiseFault_buf (code : FaultCode) (c : CommandWord) : (raiseFault code c s).buf = s.buf := rfl
@[simp] theorem raiseFault_cnt (code : FaultCode) (c : CommandWord) : (raiseFault code c s).cnt = s.cnt := rfl
@[simp] theorem raiseFault_lenBits (code : FaultCode) (c : CommandWord) : (raiseFault code c s).lenBits = s.lenBits := rfl
@[simp] theorem raiseFault_after (code : FaultCode) (c : CommandWord) : (raiseFault code c s).after = s.after := rfl
@[simp] theorem raiseFault_mode (code : FaultCode) (c : CommandWord) : (raiseFault code c s).mode = s.mode := rfl
@[simp] theorem raiseFault_faultCode (code : FaultCode) (c : CommandWord) : (raiseFault code c s).faultCode = code := rfl
@[simp] theorem raiseFault_faultCmd (code : FaultCode) (c : CommandWord) : (raiseFault code c s).faultCmd = c := rfl
@[simp] theorem raiseFault_written (code : FaultCode) (c : CommandWord) : (raiseFault code c s).written = s.written := rfl
@[simp] theorem raiseFault_commands (code : FaultCode) (c : CommandWord) : (raiseFault code c s).commands = s.commands := rfl
@[simp] theorem raiseFault_moves (code : FaultCode) (c : CommandWord) : (raiseFault code c s).moves = s.moves := rfl

@[simp] theorem resetStep_h : (resetStep s).h = State.reset.h := rfl
@[simp] theorem resetStep_v : (resetStep s).v = State.reset.v := rfl
@[simp] theorem resetStep_w : (resetStep s).w = State.reset.w := rfl
@[simp] theorem resetStep_t : (resetStep s).t = State.reset.t := rfl
@[simp] theorem resetStep_phase : (resetStep s).phase = State.reset.phase := rfl
@[simp] theorem resetStep_blk : (resetStep s).blk = State.reset.blk := rfl
@[simp] theorem resetStep_buf : (resetStep s).buf = State.reset.buf := rfl
@[simp] theorem resetStep_cnt : (resetStep s).cnt = State.reset.cnt := rfl
@[simp] theorem resetStep_lenBits : (resetStep s).lenBits = State.reset.lenBits := rfl
@[simp] theorem resetStep_after : (resetStep s).after = State.reset.after := rfl
@[simp] theorem resetStep_mode : (resetStep s).mode = State.reset.mode := rfl
@[simp] theorem resetStep_faultCode : (resetStep s).faultCode = State.reset.faultCode := rfl
@[simp] theorem resetStep_faultCmd : (resetStep s).faultCmd = State.reset.faultCmd := rfl
@[simp] theorem resetStep_written : (resetStep s).written = State.reset.written := rfl
@[simp] theorem resetStep_commands : (resetStep s).commands = s.commands := rfl
@[simp] theorem resetStep_moves : (resetStep s).moves = s.moves := rfl

@[simp] theorem State.reset_t : State.reset.t = 0 := rfl
@[simp] theorem State.reset_phase : State.reset.phase = .expand := rfl
@[simp] theorem State.reset_cnt : State.reset.cnt = 0 := rfl
@[simp] theorem State.reset_lenBits : State.reset.lenBits = 0#64 := rfl
@[simp] theorem State.reset_after : State.reset.after = .toAbsorb := rfl
@[simp] theorem State.reset_mode : State.reset.mode = .idle := rfl
@[simp] theorem State.reset_faultCode : State.reset.faultCode = .none := rfl
@[simp] theorem State.reset_faultCmd : State.reset.faultCmd = 0x0000#16 := rfl
@[simp] theorem State.reset_written : State.reset.written = Written.nothing := rfl
@[simp] theorem State.reset_commands : State.reset.commands = [] := rfl
@[simp] theorem State.reset_moves : State.reset.moves = [] := rfl

/-- Two states are equal when all their fields are. -/
theorem State.ext_fields {s t : State} (h : s.h = t.h) (v : s.v = t.v) (w : s.w = t.w) (tt : s.t = t.t)
    (phase : s.phase = t.phase) (blk : s.blk = t.blk) (buf : s.buf = t.buf) (cnt : s.cnt = t.cnt)
    (lenBits : s.lenBits = t.lenBits) (after : s.after = t.after) (mode : s.mode = t.mode)
    (faultCode : s.faultCode = t.faultCode) (faultCmd : s.faultCmd = t.faultCmd) (written : s.written = t.written)
    (commands : s.commands = t.commands) (moves : s.moves = t.moves) : s = t := by
  cases s; cases t; simp_all

end Sys2Proof.Machine
end

