-- ==== Sys2Proof/Laws/Ops.lean ====
section
/-! SUPPORT. Everything the shared operations can do, said once: accepting a command, the engine's step, the host's
step and the step itself. Later proofs cite these and unfold none of them. -/

namespace Sys2Proof.Machine

/-! ### The status bits -/

theorem ready_iff (s : State) : s.ready = true ↔ s.mode ≠ .busy ∧ s.faultCode = .none := by
  simp [State.ready]

theorem not_ready_iff (s : State) : s.ready = false ↔ s.mode = .busy ∨ s.faultCode ≠ .none := by
  simp [State.ready]; tauto

theorem engineEnabled_iff (s : State) : s.engineEnabled = true ↔ s.mode = .busy ∧ s.faultCode = .none := by
  simp [State.engineEnabled]

theorem dvalid_iff (s : State) : s.dvalid = true ↔ s.mode = .done ∧ s.faultCode = .none := by
  simp [State.dvalid]

theorem engineEnabled_of_busy {s : State} (m : s.mode = .busy) (f : s.faultCode = .none) : s.engineEnabled = true := by
  simp [State.engineEnabled, m, f]

theorem ready_not_engineEnabled {s : State} (hr : s.ready = true) : s.engineEnabled = false := by
  simp [State.ready, State.engineEnabled] at *; tauto

@[simp] theorem ready_setCommands (s : State) (cs : List CommandWord) : (s.setCommands cs).ready = s.ready := rfl
@[simp] theorem ready_setMoves (s : State) (ms : List HostMove) : (s.setMoves ms).ready = s.ready := rfl
@[simp] theorem engineEnabled_setCommands (s : State) (cs : List CommandWord) :
    (s.setCommands cs).engineEnabled = s.engineEnabled := rfl
@[simp] theorem engineEnabled_setMoves (s : State) (ms : List HostMove) :
    (s.setMoves ms).engineEnabled = s.engineEnabled := rfl

/-! ### Accepting a command -/

theorem accepted_of_ready {s : State} (hr : s.ready = true) (e : State) : accepted s e = .next e := by
  simp [accepted, hr]

theorem accepted_of_held {s : State} (hr : s.ready = false) (e : State) : accepted s e = .next s := by
  simp [accepted, hr]

/-- What an accepted command makes of the state. -/
def effect : Instr → State → State
  | .nop, s => s
  | .init, s => initEffect s
  | .absorb b, s => absorbEffect b s
  | .final, s => finalEffect s

theorem exec_eq (i : Instr) (s : State) : exec i s = accepted s (effect i s) := by
  cases i <;> rfl

/-- A command always answers a next state. -/
theorem exec_next (i : Instr) (s : State) : ∃ t, exec i s = .next t := ⟨_, exec_eq i s⟩

/-! ### ABSORB and FINAL, case by case -/

theorem absorbEffect_badState (b : Byte) {s : State} (m : s.mode ≠ .absorb) :
    absorbEffect b s = raiseFault .badState (encode (.absorb b)) s := by
  simp [absorbEffect, m]

theorem absorbEffect_limit (b : Byte) {s : State} (m : s.mode = .absorb) (l : s.lenBits = Config.lenLimit) :
    absorbEffect b s = raiseFault .lenOverflow (encode (.absorb b)) s := by
  simp [absorbEffect, m, l]

theorem absorbEffect_byte (b : Byte) {s : State} (m : s.mode = .absorb) (l : s.lenBits ≠ Config.lenLimit)
    (c : s.cnt.val < 63) : absorbEffect b s = absorbByte b s c := by
  simp [absorbEffect, m, l, c]

theorem absorbEffect_last (b : Byte) {s : State} (m : s.mode = .absorb) (l : s.lenBits ≠ Config.lenLimit)
    (c : s.cnt.val = 63) : absorbEffect b s = absorbLast b s := by
  simp [absorbEffect, m, l, c]

/-- The four things ABSORB can do. -/
theorem absorbEffect_cases (b : Byte) (s : State) :
    (s.mode ≠ .absorb ∧ absorbEffect b s = raiseFault .badState (encode (.absorb b)) s) ∨
    (s.mode = .absorb ∧ s.lenBits = Config.lenLimit ∧
      absorbEffect b s = raiseFault .lenOverflow (encode (.absorb b)) s) ∨
    (s.mode = .absorb ∧ s.lenBits ≠ Config.lenLimit ∧ ∃ c : s.cnt.val < 63, absorbEffect b s = absorbByte b s c) ∨
    (s.mode = .absorb ∧ s.lenBits ≠ Config.lenLimit ∧ s.cnt.val = 63 ∧ absorbEffect b s = absorbLast b s) := by
  by_cases m : s.mode = .absorb
  · by_cases l : s.lenBits = Config.lenLimit
    · exact .inr (.inl ⟨m, l, absorbEffect_limit b m l⟩)
    · by_cases c : s.cnt.val < 63
      · exact .inr (.inr (.inl ⟨m, l, c, absorbEffect_byte b m l c⟩))
      · have c' : s.cnt.val = 63 := by omega
        exact .inr (.inr (.inr ⟨m, l, c', absorbEffect_last b m l c'⟩))
  · exact .inl ⟨m, absorbEffect_badState b m⟩

theorem finalEffect_badState {s : State} (m : s.mode ≠ .absorb) :
    finalEffect s = raiseFault .badState (encode .final) s := by
  simp [finalEffect, m]

theorem finalEffect_blocks {s : State} (m : s.mode = .absorb) : finalEffect s = finalBlocks s := by
  simp [finalEffect, m]

theorem finalBlocks_one {s : State} (c : s.cnt.val ≤ 55) :
    finalBlocks s = ((((s.setBlk (blockAt (pad (messageTail s) s.lenBits) 0)).setAfter .toDone).setCnt 0).setPhase
      .expand).setMode .busy := by
  simp [finalBlocks, Config.oneBlockTail, c]

theorem finalBlocks_two {s : State} (c : 56 ≤ s.cnt.val) :
    finalBlocks s = (((((s.setBlk (blockAt (pad (messageTail s) s.lenBits) 0)).setBuf
      (blockAt (pad (messageTail s) s.lenBits) 1)).setAfter .toPad2).setCnt 0).setPhase .expand).setMode .busy := by
  have : ¬ s.cnt.val ≤ 55 := by omega
  simp [finalBlocks, Config.oneBlockTail, this]

/-! ### The block by itself -/

/-- What the block does by itself: it waits, or the engine takes one of its three steps, or it stops because no round
is left for ROUND. -/
theorem internalStep_cases (s : State) :
    (s.engineEnabled = false ∧ internalStep s = .next s) ∨
    (s.engineEnabled = true ∧ s.phase = .expand ∧ internalStep s = .next (expandStep s)) ∨
    (s.engineEnabled = true ∧ s.phase = .round ∧ ∃ ht : s.t.val < 64, internalStep s = .next (roundStepAt s ht)) ∨
    (s.engineEnabled = true ∧ s.phase = .round ∧ s.t.val = 64 ∧ internalStep s = .fault .roundIndexOutOfRange) ∨
    (s.engineEnabled = true ∧ s.phase = .fold ∧ internalStep s = .next (foldStep s)) := by
  cases e : s.engineEnabled
  · exact .inl ⟨rfl, by simp [internalStep, e]⟩
  · cases p : s.phase
    · exact .inr (.inl ⟨rfl, rfl, by simp [internalStep, e, engineStep, p]⟩)
    · by_cases ht : s.t.val < 64
      · exact .inr (.inr (.inl ⟨rfl, rfl, ht, by simp [internalStep, e, engineStep, p, roundStep, ht]⟩))
      · have h64 : s.t.val = 64 := by omega
        exact .inr (.inr (.inr (.inl ⟨rfl, rfl, h64, by simp [internalStep, e, engineStep, p, roundStep, h64]⟩)))
    · exact .inr (.inr (.inr (.inr ⟨rfl, rfl, by simp [internalStep, e, engineStep, p]⟩)))

/-! ### The host's step and the step -/

theorem hostStep_legal {c : CommandWord} {i : Instr} (d : decode c = .legal i) (s : State) :
    hostStep exec c s = exec i s := by
  simp [hostStep, d]

theorem hostStep_illegal {c : CommandWord} {why : Illegal} (d : decode c = .illegal why) (s : State) :
    hostStep exec c s = .next (raiseFault .illegalCmd c s) := by
  simp [hostStep, d]

/-- Whether the next step can be the host's command. -/
def offers (s : State) : Prop := s.moves = [] ∨ ∃ ms, s.moves = .offer :: ms

/-- Everything a step can be: the reset step; an accepted word; or what the block does by itself, the host's data
having moved on. In the last case no word was offered that the block could accept. -/
theorem step_cases (s : State) :
    (∃ ms, s.moves = .assertReset :: ms ∧ step s = .next (resetStep (s.setMoves ms))) ∨
    (∃ c rest, offers s ∧ s.ready = true ∧ s.commands = c :: rest ∧
      step s = hostStep exec c ((s.setMoves s.moves.tail).setCommands rest)) ∨
    (∃ cs, (offers s → s.ready = false ∨ s.commands = []) ∧ (s.commands = cs ∨ s.commands.tail = cs) ∧
      step s = internalStep ((s.setMoves s.moves.tail).setCommands cs)) := by
  have offer : ∀ ms, ms = s.moves.tail → step s = offerStep exec (s.setMoves ms) → offers s →
      (∃ c rest, offers s ∧ s.ready = true ∧ s.commands = c :: rest ∧
        step s = hostStep exec c ((s.setMoves s.moves.tail).setCommands rest)) ∨
      (∃ cs, (offers s → s.ready = false ∨ s.commands = []) ∧ (s.commands = cs ∨ s.commands.tail = cs) ∧
        step s = internalStep ((s.setMoves s.moves.tail).setCommands cs)) := by
    intro ms hms hs ho
    subst hms
    cases hc : s.commands with
    | nil =>
      refine .inr ⟨[], fun _ => .inr rfl, .inl rfl, ?_⟩
      rw [hs]; simp only [offerStep, State.setMoves_commands, hc]
      congr 1; simp only [State.setMoves, State.setCommands, ← hc]
    | cons c rest =>
      cases hr : s.ready with
      | true =>
        refine .inl ⟨c, rest, ho, rfl, rfl, ?_⟩
        rw [hs]; simp [offerStep, hc, hr]
      | false =>
        refine .inr ⟨c :: rest, fun _ => .inl rfl, .inl rfl, ?_⟩
        rw [hs]; simp only [offerStep, State.setMoves_commands, hc, ready_setMoves, hr]
        simp only [State.setMoves, State.setCommands, ← hc, if_false, Bool.false_eq_true]
  cases hm : s.moves with
  | nil =>
    refine .inr (hm ▸ offer [] (by simp [hm]) ?_ (.inl hm))
    simp only [step, portStep, hm, State.setMoves]
    rw [← hm]
  | cons mv ms =>
    cases mv with
    | offer => exact .inr (hm ▸ offer ms (by simp [hm]) (by simp [step, portStep, hm]) (.inr ⟨ms, hm⟩))
    | pause =>
      refine .inr (.inr ⟨s.commands, fun ho => ?_, .inl rfl, by simp [step, portStep, hm, State.setMoves, State.setCommands]⟩)
      rcases ho with h | ⟨_, h⟩ <;> simp [hm] at h
    | withdraw =>
      refine .inr (.inr ⟨s.commands.tail, fun ho => ?_, .inr rfl, by simp [step, portStep, hm]⟩)
      rcases ho with h | ⟨_, h⟩ <;> simp [hm] at h
    | assertReset => exact .inl ⟨ms, rfl, by simp [step, portStep, hm]⟩

end Sys2Proof.Machine
end

