-- ==== Sys2Proof/Laws/PerInstr.lean ====
section
/-! SUPPORT. The family `Fields`: each instruction's word has the fields that 30_encoding.md R70 and R71 give it. -/

namespace Sys2Proof.Laws.Fields

/-- The operation number of an instruction (R71). -/
def operation : Instr → BitVec 4
  | .nop => 0x0#4
  | .init => 0x1#4
  | .absorb _ => 0x2#4
  | .final => 0x3#4

/-- The immediate of an instruction (R73). -/
def immediate : Instr → Byte
  | .nop => 0x00#8
  | .init => 0x00#8
  | .absorb b => b
  | .final => 0x00#8

/-- The fields of the instruction's word. -/
def Statement (i : Instr) : Prop :=
  opField (encode i) = operation i ∧ rsvField (encode i) = 0x0#4 ∧ immField (encode i) = immediate i

end Sys2Proof.Laws.Fields

theorem Sys2Proof.Laws.Fields.nop : Sys2Proof.Laws.Fields.Statement .nop := by
  simp [Sys2Proof.Laws.Fields.Statement, Sys2Proof.encode, Sys2Proof.Laws.Fields.operation, Sys2Proof.Laws.Fields.immediate]

theorem Sys2Proof.Laws.Fields.init : Sys2Proof.Laws.Fields.Statement .init := by
  simp [Sys2Proof.Laws.Fields.Statement, Sys2Proof.encode, Sys2Proof.Laws.Fields.operation, Sys2Proof.Laws.Fields.immediate]

theorem Sys2Proof.Laws.Fields.absorb (b : Sys2Proof.Byte) : Sys2Proof.Laws.Fields.Statement (.absorb b) := by
  simp [Sys2Proof.Laws.Fields.Statement, Sys2Proof.encode, Sys2Proof.Laws.Fields.operation, Sys2Proof.Laws.Fields.immediate]

theorem Sys2Proof.Laws.Fields.final : Sys2Proof.Laws.Fields.Statement .final := by
  simp [Sys2Proof.Laws.Fields.Statement, Sys2Proof.encode, Sys2Proof.Laws.Fields.operation, Sys2Proof.Laws.Fields.immediate]
end

