-- ==== Sys2Proof/Laws/Run.lean ====
section
/-! SUPPORT. Runs of several steps, and the host's moves seen apart from the block. -/

namespace Sys2Proof.Machine

@[simp] theorem stepN_zero (s : State) : stepN 0 s = .next s := rfl

theorem stepN_succ {s s' : State} (h : step s = .next s') (n : Nat) : stepN (n + 1) s = stepN n s' := by
  simp [stepN, h]

/-- A run is a run of its first part and then of the rest. -/
theorem stepN_add (m n : Nat) {s t : State} (h : stepN m s = .next t) : stepN (m + n) s = stepN n t := by
  induction m generalizing s with
  | zero => simp at h; subst h; simp
  | succ m ih =>
    rw [show m + 1 + n = (m + n) + 1 by omega]
    cases e : step s with
    | next s' => rw [stepN_succ e] at h ⊢; exact ih h
    | fault r => simp [stepN, e] at h
    | refused r => simp [stepN, e] at h

/-- A host move changes the host's data only. -/
theorem takeHostMove_eq (s : State) :
    takeHostMove s = { s with commands := (takeHostMove s).commands, moves := s.moves.tail } := by
  unfold takeHostMove
  cases h : s.moves with
  | nil => cases s; simp_all
  | cons mv ms => cases mv <;> rfl

@[simp] theorem takeHostMove_moves (s : State) : (takeHostMove s).moves = s.moves.tail := by rw [takeHostMove_eq]
@[simp] theorem takeHostMove_mode (s : State) : (takeHostMove s).mode = s.mode := by rw [takeHostMove_eq]
@[simp] theorem takeHostMove_faultCode (s : State) : (takeHostMove s).faultCode = s.faultCode := by
  rw [takeHostMove_eq]
@[simp] theorem takeHostMove_phase (s : State) : (takeHostMove s).phase = s.phase := by rw [takeHostMove_eq]
@[simp] theorem takeHostMove_after (s : State) : (takeHostMove s).after = s.after := by rw [takeHostMove_eq]
@[simp] theorem takeHostMove_t (s : State) : (takeHostMove s).t = s.t := by rw [takeHostMove_eq]
@[simp] theorem takeHostMove_h (s : State) : (takeHostMove s).h = s.h := by rw [takeHostMove_eq]
@[simp] theorem takeHostMove_v (s : State) : (takeHostMove s).v = s.v := by rw [takeHostMove_eq]
@[simp] theorem takeHostMove_w (s : State) : (takeHostMove s).w = s.w := by rw [takeHostMove_eq]
@[simp] theorem takeHostMove_blk (s : State) : (takeHostMove s).blk = s.blk := by rw [takeHostMove_eq]
@[simp] theorem takeHostMove_buf (s : State) : (takeHostMove s).buf = s.buf := by rw [takeHostMove_eq]

/-- While `READY = 0` and the host asserts no reset, a step is what the block does by itself after the host's move. -/
theorem step_of_not_ready {s : State} (hr : s.ready = false) (hn : .assertReset ∉ s.moves.take 1) :
    step s = internalStep (takeHostMove s) := by
  unfold step portStep takeHostMove
  cases hmv : s.moves with
  | nil => simp [offerStep]; cases s.commands <;> simp [hr]
  | cons mv ms =>
    cases mv
    · simp [offerStep]; cases s.commands <;> simp [hr]
    · rfl
    · rfl
    · simp [hmv] at hn

theorem afterHostMoves_succ (n : Nat) (s : State) :
    afterHostMoves (n + 1) s = afterHostMoves n (takeHostMove s) := rfl

theorem afterHostMoves_add (m n : Nat) (s : State) :
    afterHostMoves (m + n) s = afterHostMoves n (afterHostMoves m s) := by
  induction m generalizing s with
  | zero => simp [afterHostMoves]
  | succ m ih => rw [show m + 1 + n = (m + n) + 1 by omega, afterHostMoves_succ, afterHostMoves_succ, ih]

theorem afterHostMoves_moves (n : Nat) (s : State) : (afterHostMoves n s).moves = s.moves.drop n := by
  induction n generalizing s with
  | zero => simp [afterHostMoves]
  | succ n ih => rw [afterHostMoves_succ, ih]; simp

theorem afterHostMoves_of_no_moves (n : Nat) {s : State} (h : s.moves = []) : afterHostMoves n s = s := by
  induction n with
  | zero => rfl
  | succ n ih =>
    have : takeHostMove s = s := by simp [takeHostMove, h]
    rw [afterHostMoves_succ, this, ih]

/-- The host's data after its moves depends on the host's data alone. -/
theorem afterHostMoves_host (n : Nat) {s u : State} (hc : s.commands = u.commands) (hm : s.moves = u.moves) :
    (afterHostMoves n s).commands = (afterHostMoves n u).commands ∧
    (afterHostMoves n s).moves = (afterHostMoves n u).moves := by
  induction n generalizing s u with
  | zero => exact ⟨hc, hm⟩
  | succ n ih =>
    rw [afterHostMoves_succ, afterHostMoves_succ]
    apply ih
    · unfold takeHostMove; rw [← hm]
      cases s.moves with
      | nil => exact hc
      | cons mv ms => cases mv <;> simp [hc]
    · simp [hm]

end Sys2Proof.Machine
end

