-- ==== Sys2Proof/Tests/Slice0.lean ====
section
/-! SUPPORT. The model's own tests. Expected values come from the tables of spec/ (30_encoding.md R71, 40_word_functions.md's
corner cases, 43_padding.md R158, and 95_test_vectors.md, whose rows are named), never from the model. Then one witness
for each statement with hypotheses: a concrete state and operands that meet them all together. -/

namespace Sys2Proof.Tests

open Sys2Proof Sys2Proof.Machine

/-- The state a step answers, if it answers one. -/
def next? : Host.Outcome State Fault Refusal → Option State
  | .next s => some s
  | .fault _ => none
  | .refused _ => none

/-- What the host sees after a step: STATUS and FAULT_CMD. -/
def seen (o : Host.Outcome State Fault Refusal) : Option (BitVec 8 × CommandWord) :=
  (next? o).map fun s => (s.status, s.faultCmdOut)

/-- An open computation in which `n` bytes `0x61` were absorbed, fewer than a block. -/
def absorbing (n : Fin 64) : State :=
  { State.reset with
    h := ivTable, mode := .absorb, cnt := n, lenBits := BitVec.ofNat 64 (8 * n.val)
    buf := Vector.ofFn fun i => if i.val < n.val then 0x61#8 else 0x00#8
    written := { Written.nothing with h := true, buf := Vector.ofFn fun i => decide (i.val < n.val) } }

/-- An open computation that has absorbed `2^61 - 1` bytes: its buffer holds 63 of them. -/
def atLimit : State := { absorbing 63 with lenBits := Config.lenLimit }

/-- One byte short of the limit. -/
def belowLimit : State := { absorbing 62 with lenBits := BitVec.ofNat 64 (2 ^ 64 - 16) }

/-- A block of the message just handed to the engine. -/
def busy (a : After) : State :=
  { State.reset with
    h := ivTable, mode := .busy, after := a, phase := .expand
    written := { Written.nothing with h := true, blk := true, phase := true, after := true
                                      buf := Vector.replicate 64 true } }

/-- The engine on its way through a block, in the given phase and before the given round. -/
def inEngine (p : Phase) (t : Fin 65) (a : After) : State := { busy a with phase := p, t := t }

/-- A finished computation. -/
def finished : State :=
  { State.reset with h := ivTable, mode := .done, written := { Written.nothing with h := true } }

/-- A faulted block. -/
def faulted : State := { State.reset with faultCode := .badState, faultCmd := 0x3000#16 }

/-! ### Well-formedness: one ill-formed word for each check -/

theorem test_wf_refuses_reserved_bits : CommandWord.reservedBitsClear 0x2100#16 = false ∧
    CommandWord.operationAssigned 0x2100#16 = true ∧ CommandWord.immediateAllowed 0x2100#16 = true ∧
    CommandWord.wf 0x2100#16 = false := by decide

theorem test_wf_refuses_unassigned_operation : CommandWord.operationAssigned 0x4000#16 = false ∧
    CommandWord.reservedBitsClear 0x4000#16 = true ∧ CommandWord.immediateAllowed 0x4000#16 = true ∧
    CommandWord.wf 0x4000#16 = false := by decide

theorem test_wf_refuses_immediate : CommandWord.immediateAllowed 0x1001#16 = false ∧
    CommandWord.reservedBitsClear 0x1001#16 = true ∧ CommandWord.operationAssigned 0x1001#16 = true ∧
    CommandWord.wf 0x1001#16 = false := by decide

theorem test_wf_accepts : CommandWord.wf 0x0000#16 ∧ CommandWord.wf 0x1000#16 ∧ CommandWord.wf 0x20FF#16 ∧
    CommandWord.wf 0x3000#16 ∧ Instr.wf (.absorb 0xFF#8) := by decide

/-! ### Decoding: words written bit by bit from the pattern `oooo rrrr iiiiiiii` and the table of R71 -/

theorem test_decode_nop : decode 0b0000000000000000#16 = .legal .nop := by decide
theorem test_decode_init : decode 0b0001000000000000#16 = .legal .init := by decide
theorem test_decode_absorb : decode 0b0010000001100001#16 = .legal (.absorb 0x61#8) ∧
    decode 0b0010000010000000#16 = .legal (.absorb 0x80#8) := by decide
theorem test_decode_final : decode 0b0011000000000000#16 = .legal .final := by decide
theorem test_decode_illegal : decode 0b0000000000000001#16 = .illegal .nonzeroImmediate ∧
    decode 0b0011000010000000#16 = .illegal .nonzeroImmediate ∧ decode 0b0000000100000000#16 = .illegal .reservedBits ∧
    decode 0b1111100000000000#16 = .illegal .reservedBits ∧ decode 0b0100000000000000#16 = .illegal .reservedOperation ∧
    decode 0b1111000000000000#16 = .illegal .reservedOperation := by decide
theorem test_encode : encode .nop = 0x0000#16 ∧ encode .init = 0x1000#16 ∧ encode (.absorb 0xA5#8) = 0x20A5#16 ∧
    encode .final = 0x3000#16 := by decide
theorem test_decode_table_word : decodeTableWord 16 0x2063 = some (.absorb 0x63#8) ∧ decodeTableWord 16 0x3000 = some .final ∧
    decodeTableWord 16 0x3001 = none ∧ decodeTableWord 24 0x1000 = none := by decide

/-- The four rows of the opcode table, each the first instruction after reset (V2 to V5). -/
theorem test_first_after_reset :
    seen (step (State.reset.withFetchWord 16 0x0000)) = some (0x01#8, 0x0000#16) ∧
    seen (step (State.reset.withFetchWord 16 0x1000)) = some (0x05#8, 0x0000#16) ∧
    seen (step (State.reset.withFetchWord 16 0x2061)) = some (0x20#8, 0x2061#16) ∧
    seen (step (State.reset.withFetchWord 16 0x3000)) = some (0x20#8, 0x3000#16) := by decide

/-! ### 95_test_vectors.md section 8 -/

theorem test_V1_reset : State.reset.status = 0x01#8 ∧ State.reset.faultCmdOut = 0x0000#16 := by decide

theorem test_V3_init : (next? (exec .init State.reset)).map (fun s => (s.status, s.h)) = some (0x05#8, ivTable) := by decide

theorem test_V6_illegal : seen (hostStep exec 0x4000#16 State.reset) = some (0x10#8, 0x4000#16) := by decide

theorem test_V7_decoding_first : seen (hostStep exec 0x2100#16 State.reset) = some (0x10#8, 0x2100#16) := by decide

theorem test_V8_illegal_in_absorb : seen (hostStep exec 0x1001#16 (absorbing 0)) = some (0x14#8, 0x1001#16) := by decide

theorem test_V9_absorb : (next? (exec (.absorb 0x61#8) (absorbing 0))).map
    (fun s => (s.buf[0], s.cnt.val, s.lenBits, s.status)) = some (0x61#8, 1, 8#64, 0x05#8) := by decide

theorem test_V11_absorb_fills : (next? (exec (.absorb 0xFF#8) (absorbing 63))).map
    (fun s => (s.blk[62], s.blk[63], s.cnt.val, s.lenBits, s.after, s.status)) =
      some (0x61#8, 0xFF#8, 0, 512#64, .toAbsorb, 0x08#8) := by decide

theorem test_V12_limit : seen (exec (.absorb 0x61#8) atLimit) = some (0x34#8, 0x2061#16) := by decide

theorem test_V13_final_one_block : (next? (exec .final (absorbing 55))).map
    (fun s => ([s.blk[54], s.blk[55], s.blk[56], s.blk[62], s.blk[63]], s.after, s.status)) =
      some ([0x61#8, 0x80#8, 0x00#8, 0x01#8, 0xB8#8], .toDone, 0x08#8) := by decide +kernel

theorem test_V14_final_two_blocks : (next? (exec .final (absorbing 56))).map
    (fun s => ([s.blk[55], s.blk[56], s.blk[63], s.buf[0], s.buf[62], s.buf[63]], s.after)) =
      some ([0x61#8, 0x80#8, 0x00#8, 0x00#8, 0x01#8, 0xC0#8], .toPad2) := by decide +kernel

theorem test_V15_V16_done : seen (exec (.absorb 0x61#8) finished) = some (0x2C#8, 0x2061#16) ∧
    seen (exec .final finished) = some (0x2C#8, 0x3000#16) := by decide

theorem test_V17_nop_in_done : seen (exec .nop finished) = some (0x0F#8, 0x0000#16) := by decide

theorem test_V19_V20_held : seen (exec .init (busy .toDone)) = some (0x08#8, 0x0000#16) ∧
    seen (exec .init faulted) = some (0x20#8, 0x3000#16) := by decide

theorem test_V21_reset_of_a_fault : seen (step { faulted with moves := [.assertReset] }) = some (0x01#8, 0x0000#16) := by
  decide

/-! ### Word functions (95_test_vectors.md section 2), schedule, round and block (sections 3 to 5) -/

theorem test_rotations_and_shifts : rotr 0x12345678#32 7 = 0xF02468AC#32 ∧ rotr 0x61626380#32 17 = 0x31C030B1#32 ∧
    shr 0x80000000#32 3 = 0x10000000#32 ∧ shr 0x12345678#32 10 = 0x00048D15#32 := by decide

theorem test_sigmas : sigma0 0x61626380#32 = 0x940E90EF#32 ∧ sigma1 0x61626380#32 = 0x7DA86405#32 ∧
    bigSigma0 0x6A09E667#32 = 0xCE20B47E#32 ∧ bigSigma1 0x510E527F#32 = 0x3587272B#32 := by decide

theorem test_choose_majority : ch 0xFF00FF00#32 0x12345678#32 0x9ABCDEF0#32 = 0x12BC56F0#32 ∧
    maj 0x6A09E667#32 0xBB67AE85#32 0x3C6EF372#32 = 0x3A6FE667#32 := by decide

/-- The padded block of `"abc"`. -/
def abcBlock : Block := blockAt (pad [0x61#8, 0x62#8, 0x63#8] 24#64) 0

theorem test_schedule_abc : (expand abcBlock)[0] = 0x61626380#32 ∧ (expand abcBlock)[18] = 0x7DA86405#32 ∧
    (expand abcBlock)[63] = 0x12B1EDEB#32 := by decide +kernel

theorem test_round_0_abc : roundFn ivTable kTable[0] 0x61626380#32 =
    #v[0x5D6AEBCD#32, 0x6A09E667#32, 0xBB67AE85#32, 0x3C6EF372#32,
       0xFA2A4622#32, 0x510E527F#32, 0x9B05688C#32, 0x1F83D9AB#32] := by decide +kernel

theorem test_compress_abc : compress ivTable abcBlock =
    #v[0xBA7816BF#32, 0x8F01CFEA#32, 0x414140DE#32, 0x5DAE2223#32,
       0xB00361A3#32, 0x96177A9C#32, 0xB410FF61#32, 0xF20015AD#32] := by decide +kernel

/-- S1: the empty message. -/
theorem test_digest_empty : digest [] =
    #v[0xE3B0C442#32, 0x98FC1C14#32, 0x9AFBF4C8#32, 0x996FB924#32,
       0x27AE41E4#32, 0x649B934C#32, 0xA495991B#32, 0x7852B855#32] := by decide +kernel

/-- One block for a tail of 0 or 55 bytes, two for 56 or 63 (R152, section 6). -/
theorem test_padding_lengths : (pad (List.replicate 0 0x61#8) 0#64).length = 64 ∧
    (pad (List.replicate 55 0x61#8) 440#64).length = 64 ∧ (pad (List.replicate 56 0x61#8) 448#64).length = 128 ∧
    (pad (List.replicate 63 0x61#8) 504#64).length = 128 := by decide +kernel

theorem test_length_field : be64bytes 24#64 = [0x00#8, 0x00#8, 0x00#8, 0x00#8, 0x00#8, 0x00#8, 0x00#8, 0x18#8] := by decide

theorem test_hex_leading_zeros : (hexDigest (Vector.replicate 8 0x0000ABCD#32)).take 8 =
    ['0', '0', '0', '0', 'a', 'b', 'c', 'd'] := by decide +kernel

/-! ### The assembler (30_encoding.md R77, R78) -/

theorem test_asm_lines : assemble ["nop ; wait".toList, "  Init".toList, "ABSORB 0x61".toList, "absorb 255".toList,
      "ABSORB 'a'".toList, "FINAL".toList, ".word 0x2100".toList, "".toList] =
    some [0x0000#16, 0x1000#16, 0x2061#16, 0x20FF#16, 0x2061#16, 0x3000#16, 0x2100#16] := by decide +kernel

theorem test_asm_pseudo : assemble ["HASH \"abc\"".toList, "ABSORBS \"\"".toList, "ABSORBX 61 fF".toList,
      "ABSORBN 3, 0x80".toList] =
    some [0x1000#16, 0x2061#16, 0x2062#16, 0x2063#16, 0x3000#16, 0x2061#16, 0x20FF#16,
          0x2080#16, 0x2080#16, 0x2080#16] := by decide +kernel

/-- A raw word with and without `0x` (95_test_vectors.md L3-6), a decimal with a leading zero, the tick as a literal with
a comment after it, `;` as a literal, and ABSORBX with no byte. -/
theorem test_asm_spellings : assemble [".word 3001   ; FINAL with IMM8 = 1".toList, ".WORD 0x3001".toList, "ABSORB 05".toList,
      "ABSORB ''' ; tick".toList, "ABSORB ';' ; semicolon".toList, "ABSORBX ; none".toList] =
    some [0x3001#16, 0x3001#16, 0x2005#16, 0x2027#16, 0x203B#16] := by decide +kernel

theorem test_asm_errors : assemble ["ABSORB 256".toList] = none ∧ assemble ["ABSORB".toList] = none ∧
    assemble ["INIT 1".toList] = none ∧ assemble ["HALT".toList] = none ∧ assemble ["ABSORB 0x".toList] = none ∧
    assemble [".word 12345".toList] = none := by decide +kernel

theorem test_listing : listing 0x2061#16 = "2061  ABSORB 0x61".toList ∧ listing 0x1000#16 = "1000  INIT".toList := by
  decide +kernel

/-! ### Witnesses: for each statement with hypotheses, data that meet them all, clause by clause, at the ends of ranges -/

theorem witness_DecodeEncodeAgree : Instr.wf (.absorb 0xFF#8) = true ∧ Instr.wf .final = true ∧
    decode 0x20FF#16 = .legal (.absorb 0xFF#8) := by decide

theorem witness_IllegalWordsClassified : State.reset.ready = true ∧ decode 0x4000#16 = .illegal .reservedOperation ∧
    decode 0x0FFF#16 = .illegal .reservedBits ∧ decode 0x30FF#16 = .illegal .nonzeroImmediate := by decide

theorem witness_StepRunsTheDecodedCommand :
    (absorbing 62).ready = true ∧
    ({ absorbing 62 with commands := [0x2061#16, 0x3000#16] } : State).commands = 0x2061#16 :: [0x3000#16] ∧
    decode 0x2061#16 = .legal (.absorb 0x61#8) ∧ (absorbing 62).moves = [] ∧
    ({ absorbing 62 with moves := [.offer, .pause] } : State).moves = .offer :: [.pause] ∧
    decode 0x2100#16 = .illegal .reservedBits ∧
    State.reset.ready = true ∧ decode (BitVec.ofNat 16 0x3000) = .legal .final := by decide

theorem witness_IllegalWordFaults : (absorbing 0).ready = true ∧ (absorbing 0).mode = .absorb ∧ State.reset.ready = true ∧
    finished.ready = true ∧ decode 0x1001#16 = .illegal .nonzeroImmediate := by decide

theorem witness_FaultsInOrderAndPrecise : State.reset.ready = true ∧ atLimit.ready = true ∧ finished.ready = true ∧
    expectedFault 0x2100#16 State.reset = .illegalCmd ∧ expectedFault 0x2061#16 finished = .badState ∧
    expectedFault 0x2061#16 atLimit = .lenOverflow ∧ expectedFault 0x2061#16 belowLimit = .none := by decide

theorem witness_BadStateOutsideAComputation : State.reset.faultCode = .none ∧ State.reset.mode = .idle ∧
    finished.faultCode = .none ∧ finished.mode = .done ∧ State.reset.ready = true ∧ finished.ready = true ∧
    (absorbing 0).ready = true ∧ (absorbing 0).mode = .absorb ∧ (busy .toDone).mode = .busy := by decide

theorem witness_HeldWhileNotReady : (busy .toDone).ready = false ∧ (busy .toDone).moves = [] ∧ faulted.ready = false ∧
    (next? (step { busy .toDone with commands := [0x2061#16] })).isSome = true := by decide +kernel

theorem witness_FaultedBlockIsQuiescent : faulted.faultCode ≠ .none ∧ ({ atLimit with faultCode := .lenOverflow } : State).faultCode ≠ .none := by
  decide

theorem witness_FaultStaysUntilReset : faulted.faultCode ≠ .none ∧
    noReset { faulted with moves := [.pause, .withdraw, .offer], commands := [0x1000#16] } := by
  constructor
  · decide
  · unfold noReset; decide

theorem witness_InitOpensAComputation :
    (State.reset.faultCode = .none ∧ State.reset.mode = .idle) ∧ ((absorbing 63).faultCode = .none ∧ (absorbing 63).mode = .absorb) ∧
    (finished.faultCode = .none ∧ finished.mode = .done) := by decide

theorem witness_AbsorbAppendsTheByte :
    ((absorbing 0).faultCode = .none ∧ (absorbing 0).mode = .absorb ∧ (absorbing 0).lenBits ≠ Config.lenLimit ∧
      (absorbing 0).cnt.val < 63) ∧
    (belowLimit.faultCode = .none ∧ belowLimit.mode = .absorb ∧ belowLimit.lenBits ≠ Config.lenLimit ∧
      belowLimit.cnt.val = 62 ∧ belowLimit.cnt.val < 63) := by decide

theorem witness_AbsorbHandsTheBlockOver : (absorbing 63).faultCode = .none ∧ (absorbing 63).mode = .absorb ∧
    (absorbing 63).lenBits ≠ Config.lenLimit ∧ (absorbing 63).cnt.val = 63 := by decide

theorem witness_AbsorbAtTheLimitFaults : atLimit.faultCode = .none ∧ atLimit.mode = .absorb ∧
    atLimit.lenBits.toNat = 2 ^ 64 - 8 := by decide

theorem witness_FinalHandsThePaddingOver :
    (∀ n : Fin 64, (absorbing n).faultCode = .none ∧ (absorbing n).mode = .absorb ∧ (absorbing n).cnt = n) ∧
    (55 : Fin 64).val ≤ 55 ∧ 56 ≤ (56 : Fin 64).val ∧ 56 ≤ (63 : Fin 64).val := by
  exact ⟨fun _ => ⟨rfl, rfl, rfl⟩, by decide, by decide, by decide⟩

theorem witness_CommandsLeaveTheRestAlone :
    exec .nop State.reset = .next State.reset ∧ exec .final (busy .toDone) = .next (busy .toDone) ∧
    exec .init faulted = .next faulted ∧
    exec .final finished = .next { finished with faultCode := .badState, faultCmd := 0x3000#16 } ∧
    (∃ t, exec (.absorb 0x61#8) (absorbing 63) = .next t ∧ t.mode = .busy) ∧
    (∃ t, exec (.absorb 0x61#8) (absorbing 62) = .next t ∧ t.mode ≠ .busy) :=
  ⟨rfl, rfl, rfl, rfl, ⟨_, rfl, by decide⟩, ⟨_, rfl, by decide⟩⟩

theorem witness_ExpandStepEffect : (busy .toPad2).mode = .busy ∧ (busy .toPad2).faultCode = .none ∧
    (busy .toPad2).phase = .expand := by decide

theorem witness_RoundStepEffect : ∀ t : Fin 65, (inEngine .round t .toDone).mode = .busy ∧
    (inEngine .round t .toDone).faultCode = .none ∧ (inEngine .round t .toDone).phase = .round ∧
    (inEngine .round t .toDone).t.val = t.val := fun _ => ⟨rfl, rfl, rfl, rfl⟩

/-- Of the rounds: the first, the last, and the index that has none. -/
theorem witness_RoundStepEffect_ends : (inEngine .round 0 .toDone).t.val = (0 : Fin 64).val ∧
    (inEngine .round 63 .toDone).t.val = (63 : Fin 64).val ∧ (63 : Fin 64).val = 63 ∧ (0 : Fin 64).val < 63 ∧
    (inEngine .round 64 .toDone).t.val = 64 := by decide

theorem witness_NoRoundBeyondTheLast : (inEngine .round 64 .toDone).mode = .busy ∧
    (inEngine .round 64 .toDone).faultCode = .none ∧ (inEngine .round 64 .toDone).phase = .round ∧
    (inEngine .round 64 .toDone).t.val = 64 := by decide

theorem witness_FoldStepEffect : ∀ a : After, (inEngine .fold 64 a).mode = .busy ∧
    (inEngine .fold 64 a).faultCode = .none ∧ (inEngine .fold 64 a).phase = .fold ∧ (inEngine .fold 64 a).after = a :=
  fun _ => ⟨rfl, rfl, rfl, rfl⟩

/-- A block whose 64 rounds are done. -/
def folding (a : After) : State :=
  { busy a with
    phase := .fold, t := 64, w := expand (busy a).blk, v := roundsUpTo (expand (busy a).blk) ivTable 64
    written := { Written.nothing with h := true, v := true, w := true, t := true, phase := true, after := true
                                      blk := true, buf := Vector.replicate 64 true } }

theorem busy_inv (a : After) : MachineInv (busy a) := by
  refine ⟨⟨fun _ => rfl, nofun, nofun, nofun, nofun, nofun, fun _ => rfl⟩,
    ⟨rfl, nofun, nofun, fun _ => rfl, fun _ _ => rfl⟩, ⟨nofun, nofun, ?_, ?_⟩, ⟨?_, ?_⟩, ⟨fun _ => rfl, nofun, ?_, ?_, ?_⟩⟩
  · intro _ h; exact absurd rfl h
  · intro _ h; exact absurd rfl h
  · intro _ _; simp only [busy]; decide +kernel
  · intro _ _; simp only [busy]; decide +kernel
  · intro _; exact ⟨rfl, rfl, rfl⟩
  · intro _ h; exact absurd rfl h
  · intro _ _ i; simp [busy]

theorem folding_inv (a : After) : MachineInv (folding a) := by
  refine ⟨⟨fun _ => rfl, nofun, nofun, nofun, nofun, nofun, fun _ => rfl⟩,
    ⟨rfl, nofun, nofun, fun _ => rfl, fun _ _ => rfl⟩, ⟨nofun, fun _ _ => rfl, fun _ _ => rfl, fun _ _ => rfl⟩, ⟨?_, ?_⟩,
    ⟨fun _ => rfl, nofun, fun _ => ⟨rfl, rfl, rfl⟩, fun _ _ => ⟨rfl, rfl, rfl⟩, ?_⟩⟩
  · intro _ _; simp only [folding, busy]; decide +kernel
  · intro _ _; simp only [folding, busy]; decide +kernel
  · intro _ _ i; simp [folding]

theorem belowLimit_inv : MachineInv belowLimit := by
  refine ⟨⟨fun _ => rfl, nofun, nofun, nofun, nofun, nofun, nofun⟩,
    ⟨by decide, nofun, fun _ => by decide, fun h => absurd rfl h, nofun⟩, ⟨nofun, nofun, nofun, nofun⟩, ⟨nofun, nofun⟩,
    ⟨fun _ => rfl, fun _ i hi => ?_, nofun, nofun, nofun⟩⟩
  have h62 : i.val < 62 := hi
  simpa [belowLimit, absorbing] using h62

/-- Fewer than 64 bytes absorbed. -/
theorem absorbing_absorbed (n : Fin 64) : Absorbed (List.replicate n.val 0x61#8) (absorbing n) := by
  have hb : ∀ n : Fin 64, messageTail (absorbing n) = tailBytes (List.replicate n.val 0x61#8) := by decide +kernel
  refine ⟨?_, rfl, rfl, by simp [absorbing], ?_, hb n, ?_⟩
  · have := n.isLt; simp [Config.messageLimit]; omega
  · have := n.isLt; simp [absorbing]; omega
  · have h0 : n.val / 64 = 0 := by have := n.isLt; omega
    simp [absorbing, h0]

/-- `Absorbed` does not depend on what the host has still to do. -/
theorem absorbed_host {m : List Byte} {s : State} (h : Absorbed m s) (cs : List CommandWord) (ms : List HostMove) :
    Absorbed m { s with commands := cs, moves := ms } :=
  ⟨h.short, h.mode, h.noFault, h.lenBits, h.cnt, h.buf, h.h⟩

theorem witness_FoldStepEffect_cnt : MachineInv (folding .toPad2) ∧ (folding .toPad2).mode = .busy ∧
    (folding .toPad2).faultCode = .none ∧ (folding .toPad2).phase = .fold := ⟨folding_inv _, rfl, rfl, rfl⟩

theorem witness_EngineRunsRoundsInOrder : (busy .toDone).mode = .busy ∧ (busy .toDone).faultCode = .none ∧
    (busy .toDone).phase = .expand ∧ 0 ≤ 64 ∧ 64 ≤ 64 ∧
    HostMove.assertReset ∉ ({ busy .toDone with moves := [.pause, .withdraw, .offer] } : State).moves.take (64 + 1) := by
  decide

theorem witness_BlockCompressesInSixtySixSteps : ∀ a : After, (busy a).mode = .busy ∧ (busy a).faultCode = .none ∧
    (busy a).phase = .expand ∧ HostMove.assertReset ∉ (busy a).moves.take 66 ∧ (busy a).after = a :=
  fun _ => ⟨rfl, rfl, rfl, by simp [busy, State.reset], rfl⟩

theorem witness_BusyEndsWithinTwoBlocks : ∀ a : After, MachineInv (busy a) ∧ (busy a).mode = .busy ∧ noReset (busy a) :=
  fun a => ⟨busy_inv a, rfl, by simp [noReset, busy, State.reset]⟩

theorem witness_ResetFromAnyState :
    ({ busy .toDone with moves := [.assertReset, .offer] } : State).moves = .assertReset :: [.offer] ∧
    ({ faulted with moves := [.assertReset] } : State).moves = .assertReset :: [] := ⟨rfl, rfl⟩

theorem witness_StatusBits : finished.mode = .done ∧ finished.faultCode = .none ∧
    ¬ (faulted.mode = .done ∧ faulted.faultCode = .none) := by decide

theorem witness_AtMostOneAgentSteps : State.reset.engineEnabled = false ∧ State.reset.ready = true ∧
    (busy .toDone).engineEnabled = true ∧
    ({ busy .toDone with moves := [.assertReset] } : State).moves = .assertReset :: [] := by decide

theorem witness_DigestStaysUntilInitOrReset : finished.dvalid = true ∧ step finished = .next finished ∧
    ({ finished with commands := [0x1000#16] } : State).dvalid = true ∧
    (next? (step { finished with commands := [0x1000#16] })).isSome = true ∧
    (next? (step { finished with commands := [0x3000#16] })).isSome = true ∧
    (next? (step { finished with moves := [.assertReset] })).isSome = true :=
  ⟨by decide, rfl, by decide, by decide, by decide, by decide⟩

/-- One step of each kind of the table. -/
theorem witness_ModeChangesOnlyByTheTable :
    (next? (step { finished with moves := [.assertReset] })).map (·.mode) = some .idle ∧
    (next? (step { State.reset with commands := [0x1000#16] })).map (·.mode) = some .absorb ∧
    (next? (step { absorbing 63 with commands := [0x2061#16] })).map (·.mode) = some .busy ∧
    (next? (step { absorbing 55 with commands := [0x3000#16] })).map (·.mode) = some .busy ∧
    (next? (step (folding .toAbsorb))).map (·.mode) = some .absorb ∧
    (next? (step (folding .toDone))).map (·.mode) = some .done := by decide +kernel

theorem witness_EveryStepKeepsTheInvariant : MachineInv (folding .toPad2) ∧
    (∃ t, step (folding .toPad2) = .next t) ∧ MachineInv belowLimit ∧ step belowLimit = .next belowLimit :=
  ⟨folding_inv _, ⟨_, rfl⟩, belowLimit_inv, rfl⟩

theorem witness_NoStepReadsAnUnwrittenRegister : MachineInv (folding .toPad2) ∧ MachineInv (busy .toDone) :=
  ⟨folding_inv _, busy_inv _⟩

theorem witness_MachineNeverStops : MachineInv (folding .toAbsorb) ∧ MachineInv belowLimit :=
  ⟨folding_inv _, belowLimit_inv⟩

theorem witness_LengthNeverWraps : MachineInv belowLimit ∧ belowLimit.mode = .absorb ∧ belowLimit.faultCode = .none ∧
    belowLimit.lenBits ≠ Config.lenLimit := ⟨belowLimit_inv, rfl, rfl, by decide⟩

theorem witness_AbsorbExtendsTheMessage :
    (Absorbed [] { absorbing 0 with commands := [encode (.absorb 0x80#8)], moves := [] } ∧ 1 < Config.messageLimit) ∧
    (Absorbed (List.replicate 63 0x61#8) { absorbing 63 with commands := [encode (.absorb 0x61#8)], moves := [] } ∧
      (List.replicate 63 0x61#8).length % 64 = 63) :=
  ⟨⟨absorbed_host (absorbing_absorbed 0) _ _, by decide⟩, ⟨absorbed_host (absorbing_absorbed 63) _ _, by decide⟩⟩

theorem witness_ChunkingDoesNotMatter :
    Absorbed (List.replicate 63 0x61#8)
      { absorbing 63 with commands := [encode .nop, encode (.absorb 0x61#8)], moves := [.pause, .offer, .pause] } ∧
    (∀ c ∈ [encode .nop, encode (.absorb 0x61#8)], c = encode .nop ∨ ∃ b, c = encode (.absorb b)) ∧
    (∀ mv ∈ [HostMove.pause, .offer, .pause], mv = .offer ∨ mv = .pause) ∧
    63 + (streamBytes [encode .nop, encode (.absorb 0x61#8)]).length < Config.messageLimit := by
  refine ⟨absorbed_host (absorbing_absorbed 63) _ _, ?_, by decide, by decide⟩
  intro c hc
  simp only [List.mem_cons, List.not_mem_nil, or_false] at hc
  exact hc.imp id fun h => ⟨_, h⟩

theorem witness_FinalGivesTheDigest : ∀ n : Fin 64,
    Absorbed (List.replicate n.val 0x61#8) { absorbing n with commands := [encode .final], moves := [] } :=
  fun n => absorbed_host (absorbing_absorbed n) _ _

theorem witness_HashWordsGiveTheDigest : ([0x61#8, 0x62#8] : List Byte).length < Config.messageLimit ∧
    ({ State.reset with commands := hashWords [0x61#8, 0x62#8] ++ [0x0000#16] } : State).ready = true ∧
    ({ finished with commands := hashWords [] } : State).ready = true ∧
    State.reset.moves = [] := by decide

/-- Two busy states that differ in registers nothing will read. -/
theorem witness_HiddenStateHasNoEffect :
    SameForHost (busy .toDone) { busy .toDone with v := ivTable, t := 3, buf := Vector.replicate 64 0xFF#8 } ∧
    (∃ t, step (busy .toDone) = .next t) ∧
    SameForHost (inEngine .round 64 .toDone) { inEngine .round 64 .toDone with buf := Vector.replicate 64 0xFF#8 } ∧
    step (inEngine .round 64 .toDone) = .fault .roundIndexOutOfRange := by
  refine ⟨⟨rfl, rfl, rfl, rfl, rfl, rfl, rfl, fun _ => rfl, fun _ => rfl, fun _ => ⟨rfl, rfl, rfl⟩,
      fun _ h => absurd rfl h, nofun⟩, ⟨_, rfl⟩,
    ⟨rfl, rfl, rfl, rfl, rfl, rfl, rfl, fun _ => rfl, fun _ => rfl, fun _ => ⟨rfl, rfl, rfl⟩, fun _ _ => ⟨rfl, rfl, rfl⟩,
      nofun⟩, rfl⟩

theorem witness_UnwrittenRegistersNeverShow :
    let s := { State.reset with commands := [0x1000#16] }
    let s' := { s with h := ivTable, buf := Vector.replicate 64 0xFF#8, phase := .fold, after := .toDone }
    s.mode = .idle ∧ s'.mode = .idle ∧ s.faultCode = s'.faultCode ∧ s.faultCmd = s'.faultCmd ∧ s.cnt = s'.cnt ∧
      s.lenBits = s'.lenBits ∧ s.commands = s'.commands ∧ s.moves = s'.moves ∧ ∃ t, stepN 1 s = .next t :=
  ⟨rfl, rfl, rfl, rfl, rfl, rfl, rfl, rfl, ⟨_, rfl⟩⟩

theorem witness_InstancesAreIndependent : (0 : Fin 2) ≠ 1 ∧
    (∃ sys', systemStep 0 (systemReset 2) = .next sys') ∧ ∃ sys', systemSteps 0 1 (systemReset 2) = .next sys' :=
  ⟨by decide, ⟨_, rfl⟩, ⟨_, rfl⟩⟩

theorem witness_RotationAndShiftBits : (0 < 1 ∧ 1 < 32 ∧ 0 < 32) ∧ (0 < 31 ∧ 31 < 32) := by decide

theorem witness_bit_indices_of_SigmaBits_and_ChooseAndMajority : 0 < 32 ∧ 31 < 32 := by decide

theorem witness_PaddingLayout : ([] : List Byte).length ≤ 55 ∧ (List.replicate 55 0x61#8).length ≤ 55 ∧
    56 ≤ (List.replicate 56 0x61#8).length ∧ 56 ≤ (List.replicate 63 0x61#8).length ∧
    (List.replicate 63 0x61#8).length ≤ 63 := by decide

/-- Both ends of a line, and each clause at the ends of its range. -/
theorem witness_OperandFormsAssemble :
    endsLine [] ∧ endsLine " ; FINAL with IMM8 = 1".toList ∧
    (hexText [(15, true), (15, false)] = "Ff".toList ∧ hexNumber [(15, true), (15, false)] = 255) ∧
    hexNumber [(0, true)] = 0 ∧ ([0, 0, 5] : List (Fin 10)) ≠ [] ∧ decimalNumber [0, 0, 5] = 5 ∧
    decimalNumber [2, 5, 5] = 255 ∧ (0x00#8).toNat < 128 ∧ (0x27#8).toNat < 128 ∧ (0x7F#8).toNat < 128 ∧
    hexNumber [(15, true), (15, true), (15, false), (15, true)] = 65535 :=
  ⟨.inl rfl, .inr ⟨" FINAL with IMM8 = 1".toList, by decide +kernel⟩, by decide +kernel⟩

theorem witness_StringOperandsAssemble : (∀ b ∈ ([] : List Byte), b.toNat < 128 ∧ b.toNat ≠ 34) ∧
    ∀ b ∈ [0x00#8, 0x3B#8, 0x27#8, 0x21#8, 0x23#8, 0x7F#8], b.toNat < 128 ∧ b.toNat ≠ 34 := by decide

end Sys2Proof.Tests
end

section
/-! SUPPORT. The fields of `STATUS` and the reads of `DIGEST` (10_state.md R35), and from them the obligation O27. -/

namespace Sys2Proof.Machine

/-! ### The fields of STATUS: each is read past the fields below it -/

theorem status_bit_zero (s : State) : s.status.getLsbD 0 = s.ready := by
  rw [State.status, BitVec.getLsbD_append]
  simp

theorem status_bit_one (s : State) : s.status.getLsbD 1 = s.dvalid := by
  rw [State.status, BitVec.getLsbD_append, BitVec.getLsbD_append]
  simp

theorem status_mode (s : State) : s.status.extractLsb' 2 2 = s.mode.code := by
  rw [State.status, BitVec.extractLsb'_append_eq_of_le (by decide), BitVec.extractLsb'_append_eq_of_le (by decide)]
  exact BitVec.extractLsb'_append_eq_right

theorem status_fault (s : State) : s.status.extractLsb' 4 2 = s.faultCode.code := by
  rw [State.status, BitVec.extractLsb'_append_eq_of_le (by decide), BitVec.extractLsb'_append_eq_of_le (by decide),
    BitVec.extractLsb'_append_eq_of_le (by decide)]
  exact BitVec.extractLsb'_append_eq_right

theorem status_reserved (s : State) : s.status.extractLsb' 6 2 = 0#2 := by
  rw [State.status, BitVec.extractLsb'_append_eq_of_le (by decide), BitVec.extractLsb'_append_eq_of_le (by decide),
    BitVec.extractLsb'_append_eq_of_le (by decide)]
  exact BitVec.extractLsb'_append_eq_left

/-! ### The reads of DIGEST -/

theorem readDigest_of_dvalid {s : State} (hd : s.dvalid = true) : s.readDigest = .ok (digestBits s.h) := by
  simp [State.readDigest, hd]

theorem readDigest_of_not_dvalid {s : State} (hd : ¬ s.dvalid = true) : s.readDigest = .error .digestNotValid := by
  simp [State.readDigest, hd]

/-- Settles O27, field by field: each field of STATUS is the value `State.status` puts there, and DIGEST is read by
DVALID. -/
theorem statusBits : Obligations.StatusBits := by
  intro s
  refine ⟨?ready, ?dvalid, ?mode, ?fault, status_reserved s, rfl, ?digest, ?noDigest⟩
  case ready => rw [status_bit_zero, ready_iff]
  case dvalid => rw [status_bit_one, dvalid_iff]
  case mode => rw [status_mode]; cases s.mode <;> rfl
  case fault => rw [status_fault]; cases s.faultCode <;> rfl
  case digest => exact fun hm hf => readDigest_of_dvalid ((dvalid_iff s).mpr ⟨hm, hf⟩)
  case noDigest => exact fun hn => readDigest_of_not_dvalid (mt (dvalid_iff s).mp hn)

end Sys2Proof.Machine
end

section
/-! SUPPORT. The decoder and the encoder as inverses (30_encoding.md R70 to R75), the big-endian layouts (R80 to R84)
and the pseudo-commands (R78); and from them the obligations O2, O51, O52, O53 and O54. -/

namespace Sys2Proof

open Laws.Fields (operation immediate)

/-! ### The encoder -/

theorem encode_eq_commandWord (i : Instr) : encode i = commandWord (operation i) 0x0#4 (immediate i) := by
  cases i <;> rfl

theorem encode_absorb (b : Byte) : encode (.absorb b) = 0x2000#16 + b.setWidth 16 := by
  apply BitVec.eq_of_toNat_eq
  have := b.isLt
  rw [encode, commandWord_toNat]
  simp; omega

/-- The table of R71 by the word's value. -/
theorem eq_encode_iff (c : CommandWord) (i : Instr) : c = encode i ↔
    (c = 0x0000#16 ∧ i = .nop) ∨ (c = 0x1000#16 ∧ i = .init) ∨ (c = 0x3000#16 ∧ i = .final) ∨
      ∃ b : Byte, c = 0x2000#16 + b.setWidth 16 ∧ i = .absorb b := by
  cases i with
  | nop => simp [show encode .nop = 0x0000#16 from rfl]
  | init => simp [show encode .init = 0x1000#16 from rfl]
  | absorb b => simp [encode_absorb]
  | final => simp [show encode .final = 0x3000#16 from rfl]

/-! ### The decoder as the encoder's inverse -/

theorem nullary_eq_legal_iff {imm : Byte} {i j : Instr} : nullary imm i = .legal j ↔ imm = 0x00#8 ∧ i = j := by
  unfold nullary
  split <;> simp [*]

@[simp] theorem decode_encode (i : Instr) : decode (encode i) = .legal i := by
  cases i <;> simp [decode, encode, nullary]

/-- Where the decoder answers a command, it has compared all three fields with that command's own (R71 to R73). -/
theorem fields_of_decode_legal {c : CommandWord} {i : Instr} (h : decode c = .legal i) :
    opField c = operation i ∧ rsvField c = 0x0#4 ∧ immField c = immediate i := by
  unfold decode at h
  split_ifs at h with rsv op op op op
  · obtain ⟨imm, rfl⟩ := nullary_eq_legal_iff.mp h
    exact ⟨op, not_not.mp rsv, imm⟩
  · obtain ⟨imm, rfl⟩ := nullary_eq_legal_iff.mp h
    exact ⟨op, not_not.mp rsv, imm⟩
  · obtain rfl := Cmd.legal.inj h
    exact ⟨op, not_not.mp rsv, rfl⟩
  · obtain ⟨imm, rfl⟩ := nullary_eq_legal_iff.mp h
    exact ⟨op, not_not.mp rsv, imm⟩

theorem decode_eq_legal_iff {c : CommandWord} {i : Instr} : decode c = .legal i ↔ c = encode i := by
  constructor
  · intro h
    obtain ⟨op, rsv, imm⟩ := fields_of_decode_legal h
    rw [encode_eq_commandWord, ← op, ← rsv, ← imm, commandWord_fields]
  · rintro rfl
    exact decode_encode i

/-! ### The well-formed words are the commands' words -/

theorem wf_iff (c : CommandWord) : CommandWord.wf c = true ↔
    rsvField c = 0x0#4 ∧ (opField c).toNat < 4 ∧ (opField c = 0x2#4 ∨ immField c = 0x00#8) := by
  simp [CommandWord.wf, CommandWord.reservedBitsClear, CommandWord.operationAssigned, CommandWord.immediateAllowed,
    rsvField, opField, immField, and_assoc]

theorem wf_iff_toNat (c : CommandWord) : CommandWord.wf c = true ↔
    c.toNat / 256 % 16 = 0 ∧ c.toNat / 4096 < 4 ∧ (c.toNat / 4096 = 2 ∨ c.toNat % 256 = 0) := by
  simp [wf_iff, ← BitVec.toNat_inj, opField_toNat, rsvField_toNat, immField_toNat]

theorem wf_encode (i : Instr) : CommandWord.wf (encode i) = true := by
  rw [wf_iff]
  cases i <;> simp [encode]

/-- The checks leave `OP` four values, and each of them, with the other two fields, makes the word of one command. -/
theorem exists_eq_encode_of_wf {c : CommandWord} (h : CommandWord.wf c = true) : ∃ i, c = encode i := by
  obtain ⟨rsv, op, imm⟩ := (wf_iff c).mp h
  have fields := commandWord_fields c
  rw [rsv] at fields
  have op : opField c = 0x0#4 ∨ opField c = 0x1#4 ∨ opField c = 0x2#4 ∨ opField c = 0x3#4 := by bv_omega
  rcases op with op | op | op | op <;> rw [op] at fields imm
  case inr.inr.inl => exact ⟨.absorb (immField c), fields.symm⟩
  all_goals rw [imm.resolve_left (by decide)] at fields
  · exact ⟨.nop, fields.symm⟩
  · exact ⟨.init, fields.symm⟩
  · exact ⟨.final, fields.symm⟩

theorem exists_decode_legal_iff_wf (c : CommandWord) : (∃ i, decode c = .legal i) ↔ CommandWord.wf c = true := by
  simp only [decode_eq_legal_iff]
  constructor
  · rintro ⟨i, rfl⟩
    exact wf_encode i
  · exact exists_eq_encode_of_wf

theorem exists_decode_illegal_iff_not_wf (c : CommandWord) :
    (∃ why, decode c = .illegal why) ↔ ¬ CommandWord.wf c = true := by
  rw [← exists_decode_legal_iff_wf]
  cases decode c <;> simp

namespace Machine

/-- Settles O2: the words that decode to a command are exactly the well-formed ones, each the word of its command. -/
theorem illegalWordsClassified : Obligations.IllegalWordsClassified := by
  intro c
  refine ⟨?illegal, ?faults, exists_decode_legal_iff_wf c, fun i => ?word⟩
  case illegal =>
    rw [exists_decode_illegal_iff_not_wf, wf_iff_toNat]
    omega
  case faults => exact fun s _ _ d => hostStep_illegal d s
  case word => rw [decode_eq_legal_iff, eq_encode_iff]

/-! ### Big-endian words and lengths (R80, R82) -/

theorem be32_eq_or (b0 b1 b2 b3 : Byte) : be32 b0 b1 b2 b3 =
    b0.setWidth 32 <<< 24 ||| b1.setWidth 32 <<< 16 ||| b2.setWidth 32 <<< 8 ||| b3.setWidth 32 := by
  rw [← BitVec.setWidth_eq (be32 b0 b1 b2 b3)]
  exact BitVec.setWidth_append_append_append_eq_shiftLeft_setWidth_or

theorem be64bytes_getElem? (v : BitVec 64) (k : Fin 8) :
    (be64bytes v)[k.val]? = some (BitVec.ofNat 8 (v.toNat / 256 ^ (7 - k.val))) := by
  have shift : 2 ^ (56 - 8 * k.val) = 256 ^ (7 - k.val) := by
    rw [show 256 = 2 ^ 8 from rfl, ← pow_mul, Nat.mul_sub]
  simp [be64bytes, BitVec.extractLsb', Nat.shiftRight_eq_div_pow, shift]

/-- Settles O51: a concatenation is the `or` of its shifted parts, and a byte of the length is a quotient by a power
of 256. -/
theorem bigEndianValues : Obligations.BigEndianValues :=
  ⟨be32_eq_or, fun v => ⟨be64bytes_length v, be64bytes_getElem? v⟩⟩

/-! ### The fields of the digest output (R83) -/

theorem extractLsb'_extractLsb' {w : Nat} (x : BitVec w) (start len start' len' : Nat) (fits : start' + len' ≤ len) :
    (x.extractLsb' start len).extractLsb' start' len' = x.extractLsb' (start + start') len' := by
  ext i hi
  have inside : start' + i < len := by omega
  simp [inside, Nat.add_assoc]

/-- Word `i` is read past the `7 - i` words below it. -/
theorem digestBits_word (h : Words8) (i : Fin 8) :
    (digestBits h).extractLsb' (224 - 32 * i.val) 32 = h[i.val] := by
  rw [digestBits]
  fin_cases i
  · iterate 7 rw [BitVec.extractLsb'_append_eq_of_le (by decide)]
    exact BitVec.extractLsb'_eq_self
  all_goals
    repeat rw [BitVec.extractLsb'_append_eq_of_le (by decide)]
    exact BitVec.extractLsb'_append_eq_right

/-- A field within word `i` of `H`, as it stands in the digest output: the bytes of R83 and the nibbles of R84. -/
theorem digestBits_field (h : Words8) (i : Fin 8) {start len : Nat} (fits : start + len ≤ 32) :
    (digestBits h).extractLsb' (224 - 32 * i.val + start) len = (h[i.val]).extractLsb' start len := by
  rw [← digestBits_word, extractLsb'_extractLsb' _ _ _ _ _ fits]

theorem digestByte_eq (h : Words8) (k : Fin 32) :
    digestByte h k = (digestBits h).extractLsb' (248 - 8 * k.val) 8 := by
  have position : 248 - 8 * k.val = 224 - 32 * (k.val / 4) + (24 - 8 * (k.val % 4)) := by omega
  rw [position]
  exact (digestBits_field h ⟨k.val / 4, by omega⟩ (by omega)).symm

/-- Settles O52, from the place of each word in the digest output. -/
theorem digestOutputLayout : Obligations.DigestOutputLayout :=
  fun h => ⟨digestBits_word h, digestByte_eq h⟩

/-! ### The hex rendering (R84) -/

/-- The alphabet of R84, `0123456789abcdef`. -/
def hexAlphabet : List Char :=
  ['0', '1', '2', '3', '4', '5', '6', '7', '8', '9', 'a', 'b', 'c', 'd', 'e', 'f']

theorem hexAlphabet_getElem? : ∀ n : BitVec 4, hexAlphabet[n.toNat]? = some (hexDigit n) := by decide

theorem hexDigest_length (h : Words8) : (hexDigest h).length = 64 := by simp [hexDigest]

theorem hexDigest_getElem? (h : Words8) (j : Fin 64) :
    (hexDigest h)[j.val]? = some (hexDigit ((digestBits h).extractLsb' (252 - 4 * j.val) 4)) := by
  simp [hexDigest]

/-- The 64 nibbles are numbered word by word, 8 to a word. -/
theorem range_64_eq_flatMap :
    List.range 64 = (List.finRange 8).flatMap fun i => (List.range 8).map fun j => 8 * i.val + j := by
  decide

/-- Nibble `j` of word `i` is nibble `8i + j` of the digest output. -/
theorem digestBits_nibble (h : Words8) (i : Fin 8) {j : Nat} (hj : j < 8) :
    (digestBits h).extractLsb' (252 - 4 * (8 * i.val + j)) 4 = (h[i.val]).extractLsb' (28 - 4 * j) 4 := by
  have position : 252 - 4 * (8 * i.val + j) = 224 - 32 * i.val + (28 - 4 * j) := by omega
  rw [position, digestBits_field h i (by omega)]

theorem hexDigest_eq_flatMap (h : Words8) : hexDigest h = (List.finRange 8).flatMap fun i =>
    (List.range 8).map fun j => hexDigit ((h[i.val]).extractLsb' (28 - 4 * j) 4) := by
  rw [hexDigest, range_64_eq_flatMap, List.map_flatMap]
  refine List.flatMap_congr fun i _ => ?_
  rw [List.map_map]
  refine List.map_congr_left fun j hj => ?_
  exact congrArg hexDigit (digestBits_nibble h i (List.mem_range.mp hj))

/-- Settles O53: each character is looked up in the alphabet, and the nibbles are regrouped by word. -/
theorem hexRendering : Obligations.HexRendering := by
  intro h
  refine ⟨hexDigest_length h, fun j => ?_, hexDigest_eq_flatMap h⟩
  exact (hexDigest_getElem? h j).trans (hexAlphabet_getElem? _).symm

/-! ### The pseudo-commands (R78) -/

theorem map_decode_absorbWords (bytes : List Byte) :
    (absorbWords bytes).map decode = bytes.map fun b => .legal (.absorb b) := by
  simp [absorbWords]

theorem map_decode_hashWords (m : List Byte) :
    (hashWords m).map decode = .legal .init :: (m.map (fun b => .legal (.absorb b)) ++ [.legal .final]) := by
  simp [hashWords, map_decode_absorbWords]

theorem absorbWords_replicate (n : Nat) (b : Byte) :
    absorbWords (List.replicate n b) = List.replicate n (0x2000#16 + b.setWidth 16) := by
  simp [absorbWords, encode_absorb]

/-- Settles O54: each pseudo-command is the words of its bytes, and each word decodes to its command. -/
theorem pseudoCommandsExpand : Obligations.PseudoCommandsExpand :=
  ⟨fun text => ⟨map_decode_absorbWords text, map_decode_absorbWords text, map_decode_hashWords text⟩,
    absorbWords_replicate⟩

end Machine

end Sys2Proof
end

section
/-! SUPPORT. The word functions bit by bit (40_word_functions.md R100 to R108); and from them the obligations O44, O45
and O46. -/

namespace Sys2Proof.Machine

/-! ### Shifts and rotations (R100, R101) -/

theorem shr_getLsbD (x : Word) (n i : Nat) :
    (shr x n).getLsbD i = (if i + n ≤ 31 then x.getLsbD (i + n) else false) := by
  rw [shr, BitVec.getLsbD_ushiftRight, Nat.add_comm n i]
  split
  · rfl
  · exact BitVec.getLsbD_of_ge x (i + n) (by omega)

theorem rotr_eq_rotateRight (x : Word) {n : Nat} (hn : n < 32) : rotr x n = x.rotateRight n := by
  rw [BitVec.rotateRight_def, Nat.mod_eq_of_lt hn, rotr, shr]

/-- Below `32 - n` the bit comes from the right shift; from there on it wraps round. -/
theorem rotr_getLsbD (x : Word) {n i : Nat} (hn : n < 32) (hi : i < 32) :
    (rotr x n).getLsbD i = x.getLsbD ((i + n) % 32) := by
  rw [rotr_eq_rotateRight x hn, BitVec.getLsbD_rotateRight, Nat.mod_eq_of_lt hn, Bool.cond_decide]
  split
  case isTrue below =>
    rw [Nat.mod_eq_of_lt (by omega), Nat.add_comm]
  case isFalse wraps =>
    have position : i - (32 - n) = (i + n) % 32 := by omega
    simp [hi, position]

/-- Settles O44: the model's rotation is the library's, and the bits past the top of a shift are 0. -/
theorem rotationAndShiftBits : Obligations.RotationAndShiftBits :=
  fun x n i _ hn hi => ⟨rotr_getLsbD x hn hi, shr_getLsbD x n i⟩

/-! ### The sigma functions (R103 to R106) -/

/-- Settles O45: an exclusive or is taken bit by bit, and each of its three words is a rotation or a shift. -/
theorem sigmaBits : Obligations.SigmaBits := by
  intro x i hi
  have rot (n : Nat) (hn : n < 32) : (rotr x n).getLsbD i = x.getLsbD ((i + n) % 32) := rotr_getLsbD x hn hi
  simp (disch := decide) only [sigma0, sigma1, bigSigma0, bigSigma1, BitVec.getLsbD_xor, rot, shr_getLsbD, and_self]

/-! ### Choose and majority (R107, R108) -/

theorem ch_getLsbD (x y z : Word) {i : Nat} (hi : i < 32) :
    (ch x y z).getLsbD i = (if x.getLsbD i then y.getLsbD i else z.getLsbD i) := by
  have bits : (ch x y z).getLsbD i = ((x.getLsbD i && y.getLsbD i) ^^ (!x.getLsbD i && z.getLsbD i)) := by
    simp [ch, hi]
  rw [bits]
  cases x.getLsbD i <;> simp

theorem maj_getLsbD (x y z : Word) (i : Nat) : (maj x y z).getLsbD i =
    (((x.getLsbD i && y.getLsbD i) ^^ (x.getLsbD i && z.getLsbD i)) ^^ (y.getLsbD i && z.getLsbD i)) := by
  simp [maj]

/-- Of three bits, the exclusive or of the pairwise products is 1 exactly where two of the bits are. -/
theorem xor_of_pairwise_and_iff_two_le : ∀ a b c : Bool,
    (((a && b) ^^ (a && c)) ^^ (b && c)) = true ↔ 2 ≤ a.toNat + b.toNat + c.toNat := by
  decide

/-- Settles O46: each bit depends on the three bits at its own place only, and there it is a truth table. -/
theorem chooseAndMajority : Obligations.ChooseAndMajority := by
  intro x y z i hi
  refine ⟨ch_getLsbD x y z hi, ?_⟩
  rw [maj_getLsbD]
  exact xor_of_pairwise_and_iff_two_le _ _ _

end Sys2Proof.Machine
end

section
/-! SUPPORT. The message schedule (41_schedule.md R120 to R123): loading and expansion as an invariant of the expander's
loop, which one schedule alone has at the loop's end, and the engine's EXPAND step; and from these the
obligations O48 and O18. -/

namespace Sys2Proof.Machine

/-! ### The words one expansion reads and writes (R122) -/

/-- Every word on the right of R122 has a smaller index than `t`. -/
theorem scheduleWord_congr {S S' : Words64} {t : Nat} (lo : 16 ≤ t) (hi : t < 64)
    (agree : ∀ j, (h : j < t) → S[j] = S'[j]) : scheduleWord S t lo hi = scheduleWord S' t lo hi := by
  rw [scheduleWord, agree (t - 2) (by omega), agree (t - 7) (by omega), agree (t - 15) (by omega),
    agree (t - 16) (by omega), scheduleWord]

/-- R122 counted from the first expanded word. -/
theorem scheduleWord_add (S : Words64) (i : Fin 48) : scheduleWord S (16 + i.val) (by omega) (by omega) =
    sigma1 S[i.val + 14] + S[i.val + 9] + sigma0 S[i.val + 1] + S[i.val] := by
  have back2 : 16 + i.val - 2 = i.val + 14 := by omega
  have back7 : 16 + i.val - 7 = i.val + 9 := by omega
  have back15 : 16 + i.val - 15 = i.val + 1 := by omega
  have back16 : 16 + i.val - 16 = i.val := by omega
  simp only [scheduleWord, back2, back7, back15, back16]

theorem expandAt_getElem_self (S : Words64) (i : Fin 48) :
    (expandAt S i)[16 + i.val] = scheduleWord S (16 + i.val) (by omega) (by omega) :=
  Vector.getElem_set_self _

theorem expandAt_getElem_lt (S : Words64) (i : Fin 48) {j : Nat} (h : j < 16 + i.val) : (expandAt S i)[j] = S[j] :=
  Vector.getElem_set_ne _ _ (by omega)

/-! ### The expander's loop -/

/-- The invariant of the expander's loop: the words of R121 are loaded, and the first `n` of R122 stand. -/
structure ScheduledUpTo (B : Block) (S : Words64) (n : Nat) : Prop where
  loaded : ∀ t : Fin 16, S[t.val] = blockWord B t
  expanded : ∀ i : Fin 48, i.val < n → S[16 + i.val] = scheduleWord S (16 + i.val) (by omega) (by omega)

theorem loadSchedule_scheduledUpTo (B : Block) : ScheduledUpTo B (loadSchedule B) 0 where
  loaded t := by simp [loadSchedule]
  expanded _ h := absurd h (Nat.not_lt_zero _)

/-- Expanding word `16 + i` leaves the words before it, which are all that the equations up to its own read. -/
theorem expandAt_scheduledUpTo {B : Block} {S : Words64} (i : Fin 48) (h : ScheduledUpTo B S i.val) :
    ScheduledUpTo B (expandAt S i) (i.val + 1) where
  loaded t := by rw [expandAt_getElem_lt S i (by omega), h.loaded t]
  expanded k hk := by
    have reads : scheduleWord (expandAt S i) (16 + k.val) (by omega) (by omega) =
        scheduleWord S (16 + k.val) (by omega) (by omega) :=
      scheduleWord_congr _ _ fun j hj => expandAt_getElem_lt S i (by omega)
    rw [reads]
    obtain before | rfl : k.val < i.val ∨ k = i := by omega
    · rw [expandAt_getElem_lt S i (by omega), h.expanded k before]
    · exact expandAt_getElem_self S k

theorem foldl_expandAt_scheduledUpTo (B : Block) {n : Nat} (hn : n ≤ 48) :
    ScheduledUpTo B (((List.finRange 48).take n).foldl expandAt (loadSchedule B)) n := by
  induction n with
  | zero => exact loadSchedule_scheduledUpTo B
  | succ n ih =>
    have next : n < (List.finRange 48).length := by simpa using hn
    rw [List.take_add_one, List.getElem?_eq_getElem next, List.getElem_finRange, List.foldl_append]
    exact expandAt_scheduledUpTo ⟨n, hn⟩ (ih (by omega))

theorem expand_scheduledUpTo (B : Block) : ScheduledUpTo B (expand B) 48 := by
  have whole : (List.finRange 48).take 48 = List.finRange 48 := List.take_of_length_le (by simp)
  have atEnd := foldl_expandAt_scheduledUpTo B (n := 48) le_rfl
  rwa [whole] at atEnd

/-- Two schedules of one block agree word by word: a loaded word is the block's, an expanded one is determined by the
words before it. -/
theorem ScheduledUpTo.getElem_eq {B : Block} {S S' : Words64} (h : ScheduledUpTo B S 48) (h' : ScheduledUpTo B S' 48)
    (j : Nat) (hj : j < 64) : S[j] = S'[j] := by
  induction j using Nat.strong_induction_on with
  | _ j ih =>
    by_cases first : j < 16
    · exact (h.loaded ⟨j, first⟩).trans (h'.loaded ⟨j, first⟩).symm
    · obtain ⟨i, rfl⟩ := Nat.exists_eq_add_of_le (Nat.not_lt.mp first)
      have hi : i < 48 := by omega
      calc S[16 + i] = scheduleWord S (16 + i) (by omega) hj := h.expanded ⟨i, hi⟩ hi
        _ = scheduleWord S' (16 + i) (by omega) hj := scheduleWord_congr _ _ fun k hk => ih k hk (by omega)
        _ = S'[16 + i] := (h'.expanded ⟨i, hi⟩ hi).symm

theorem eq_expand_iff_scheduledUpTo (B : Block) (S : Words64) : S = expand B ↔ ScheduledUpTo B S 48 := by
  constructor
  · rintro rfl
    exact expand_scheduledUpTo B
  · exact fun h => Vector.ext (h.getElem_eq (expand_scheduledUpTo B))

/-- The whole invariant in the spec's own terms: R121 by the block's bytes, R122 by the sum. -/
theorem scheduledUpTo_iff (B : Block) (S : Words64) : ScheduledUpTo B S 48 ↔
    (∀ t : Fin 16, S[t.val] = be32 B[4 * t.val] B[4 * t.val + 1] B[4 * t.val + 2] B[4 * t.val + 3]) ∧
    (∀ t : Fin 48, S[t.val + 16] = sigma1 S[t.val + 14] + S[t.val + 9] + sigma0 S[t.val + 1] + S[t.val]) := by
  simp only [← scheduleWord_add, Nat.add_comm _ 16]
  exact ⟨fun h => ⟨h.loaded, fun t => h.expanded t t.isLt⟩, fun ⟨loaded, expanded⟩ => ⟨loaded, fun t _ => expanded t⟩⟩

/-- Settles O48: the expander's loop keeps its invariant, and no second schedule has it at the loop's end. -/
theorem expandIsTheSchedule : Obligations.ExpandIsTheSchedule :=
  fun B S => (eq_expand_iff_scheduledUpTo B S).trans (scheduledUpTo_iff B S)

/-! ### The engine's step (R123) -/

theorem internalStep_of_expand {s : State} (e : s.engineEnabled = true) (p : s.phase = .expand) :
    internalStep s = .next (expandStep s) := by
  simp [internalStep, e, engineStep, p]

theorem expandStep_eq (s : State) : expandStep s = { s with
    w := expand s.blk, v := s.h, t := 0, phase := .round
    written := { s.written with w := true, v := true, t := true, phase := true } } := by
  simp only [expandStep, State.setW, State.setV, State.setT, State.setPhase]

/-- Settles O18: the engine is enabled and its phase selects EXPAND, whose four writes are the listed ones. -/
theorem expandStepEffect : Obligations.ExpandStepEffect := by
  intro s m f p
  rw [internalStep_of_expand (engineEnabled_of_busy m f) p, expandStep_eq]

end Sys2Proof.Machine
end

section
/-! SUPPORT. The engine's ROUND and FOLD steps (42_compression.md R132 to R134): what each writes, as one record update; and
from these the obligations O19 and O21. -/

namespace Sys2Proof.Machine

/-! ### ROUND (R132) -/

theorem internalStep_of_round {s : State} (e : s.engineEnabled = true) (p : s.phase = .round) (ht : s.t.val < 64) :
    internalStep s = .next (roundStepAt s ht) := by
  simp [internalStep, e, engineStep, p, roundStep, ht]

/-- The writes of ROUND: `Phase` and its marker are written after round 63 only. -/
theorem roundStepAt_eq (s : State) (ht : s.t.val < 64) : roundStepAt s ht = { s with
    v := roundFn s.v kTable[s.t.val] s.w[s.t.val], t := ⟨s.t.val + 1, by omega⟩
    phase := if s.t.val = 63 then .fold else s.phase
    written := { s.written with v := true, t := true, phase := if s.t.val = 63 then true else s.written.phase } } := by
  by_cases last : s.t.val = 63
  · simp [roundStepAt, State.setV, State.setT, State.setPhase, last]
  · simp [roundStepAt, State.setV, State.setT, last]

/-- Settles O19: the engine is enabled and its phase selects ROUND, whose round number is `T`. -/
theorem roundStepEffect : Obligations.RoundStepEffect := by
  intro s j m f p hj
  have ht : s.t.val < 64 := hj ▸ j.isLt
  obtain rfl : j = ⟨s.t.val, ht⟩ := Fin.ext hj.symm
  refine ⟨_, internalStep_of_round (engineEnabled_of_busy m f) p ht, ?_⟩
  rw [roundStepAt_eq]
  exact ⟨rfl, rfl, fun last => if_pos last, fun before => (if_neg before.ne).trans p, rfl, rfl, rfl, rfl⟩

/-! ### FOLD (R133, R134) -/

theorem internalStep_of_fold {s : State} (e : s.engineEnabled = true) (p : s.phase = .fold) :
    internalStep s = .next (foldStep s) := by
  simp [internalStep, e, engineStep, p]

/-- The eight sums of R133, as naturals. -/
theorem addWords_getElem_toNat (x y : Words8) (i : Fin 8) :
    ((addWords x y)[i.val]).toNat = ((x[i.val]).toNat + (y[i.val]).toNat) % 2 ^ 32 := by
  simp [addWords, BitVec.toNat_add]

theorem foldStep_of_toAbsorb {s : State} (a : s.after = .toAbsorb) : foldStep s = { s with
    h := addWords s.h s.v, mode := .absorb, written := { s.written with h := true } } := by
  simp [foldStep, foldDispatch, a, State.setH, State.setMode]

theorem foldStep_of_toPad2 {s : State} (a : s.after = .toPad2) : foldStep s = { s with
    h := addWords s.h s.v, blk := s.buf, after := .toDone, phase := .expand
    written := { s.written with h := true, blk := true, after := true, phase := true } } := by
  simp [foldStep, foldDispatch, a, State.setH, State.setBlk, State.setAfter, State.setPhase]

theorem foldStep_of_toDone {s : State} (a : s.after = .toDone) : foldStep s = { s with
    h := addWords s.h s.v, mode := .done, written := { s.written with h := true } } := by
  simp [foldStep, foldDispatch, a, State.setH, State.setMode]

/-- Whatever the dispatch, `H` takes the sums and `Cnt` is not changed (R134's corner case). -/
theorem foldStep_h_cnt (s : State) : (foldStep s).h = addWords s.h s.v ∧ (foldStep s).cnt = s.cnt := by
  cases a : s.after with
  | toAbsorb => rw [foldStep_of_toAbsorb a]; exact ⟨rfl, rfl⟩
  | toPad2 => rw [foldStep_of_toPad2 a]; exact ⟨rfl, rfl⟩
  | toDone => rw [foldStep_of_toDone a]; exact ⟨rfl, rfl⟩

/-- Settles O21: the engine is enabled and its phase selects FOLD, whose sums and dispatch are the listed ones. -/
theorem foldStepEffect : Obligations.FoldStepEffect := by
  intro s m f p
  obtain ⟨sums, cnt⟩ := foldStep_h_cnt s
  refine ⟨foldStep s, internalStep_of_fold (engineEnabled_of_busy m f) p, fun i => ?_, fun a => ?_, fun a => ?_,
    fun a => ?_, fun inv => ?_⟩
  · rw [sums, addWords_getElem_toNat]
  · rw [sums, foldStep_of_toAbsorb a]
  · rw [sums, foldStep_of_toPad2 a]
  · rw [sums, foldStep_of_toDone a]
  · rw [cnt, inv.counts.elsewhere_empty (by simp [m])]

end Sys2Proof.Machine
end

section
/-! SUPPORT. The four commands (44_stream.md R172 to R179): what each writes when it is accepted, as one record update; and
from these the obligations O11 to O16. -/

namespace Sys2Proof.Machine

/-! ### Accepting a command (R170) -/

theorem ready_of_absorb {s : State} (f : s.faultCode = .none) (m : s.mode = .absorb) : s.ready = true :=
  (ready_iff s).mpr ⟨by simp [m], f⟩

theorem exec_of_ready {s : State} (hr : s.ready = true) (i : Instr) : exec i s = .next (effect i s) := by
  rw [exec_eq, accepted_of_ready hr]

theorem exec_absorb {s : State} (f : s.faultCode = .none) (m : s.mode = .absorb) (b : Byte) :
    exec (.absorb b) s = .next (absorbEffect b s) :=
  exec_of_ready (ready_of_absorb f m) (.absorb b)

/-! ### NOP (R172) and INIT (R173) -/

theorem exec_nop (s : State) : exec .nop s = .next s := by
  rw [exec_eq]
  cases hr : s.ready with
  | true => exact accepted_of_ready hr s
  | false => exact accepted_of_held hr s

/-- Settles O11: accepted or held, NOP answers the state it was given. -/
theorem nopChangesNothing : Obligations.NopChangesNothing := ⟨rfl, exec_nop⟩

theorem initEffect_eq (s : State) : initEffect s = { s with
    h := ivTable, lenBits := 0#64, cnt := 0, mode := .absorb, written := { s.written with h := true } } := rfl

theorem status_of_absorb {s : State} (f : s.faultCode = .none) (m : s.mode = .absorb) : s.status = 0x05#8 := by
  have dvalid : s.dvalid = false := by simp [State.dvalid, m]
  rw [State.status, f, m, ready_of_absorb f m, dvalid]
  rfl

/-- Settles O12: each of the three modes accepts INIT, and the state it answers accepts the message's bytes. -/
theorem initOpensAComputation : Obligations.InitOpensAComputation := by
  refine ⟨rfl, fun s f accepting => ?_⟩
  have notBusy : s.mode ≠ .busy := by rcases accepting with m | m | m <;> simp [m]
  refine ⟨initEffect s, exec_of_ready ((ready_iff s).mpr ⟨notBusy, f⟩) .init, ?_⟩
  rw [initEffect_eq]
  exact ⟨rfl, rfl, status_of_absorb f rfl⟩

/-! ### ABSORB (R174 to R177) -/

theorem absorbByte_eq (b : Byte) (s : State) (c : s.cnt.val < 63) : absorbByte b s c = { s with
    buf := s.buf.set s.cnt.val b, cnt := ⟨s.cnt.val + 1, by omega⟩, lenBits := s.lenBits + 8#64
    written := { s.written with buf := s.written.buf.set s.cnt.val true } } := rfl

theorem absorbLast_eq (b : Byte) (s : State) : absorbLast b s = { s with
    buf := s.buf.set 63 b, blk := s.buf.set 63 b, cnt := 0, lenBits := s.lenBits + 8#64, after := .toAbsorb
    phase := .expand, mode := .busy
    written := { s.written with buf := s.written.buf.set 63 true, blk := true, after := true, phase := true } } := by
  simp only [absorbLast, State.setBufByte, State.setBlk, State.setCnt, State.setLenBits, State.setAfter, State.setPhase,
    State.setMode]
  rfl

theorem lenBits_eq_lenLimit_iff (s : State) : s.lenBits = Config.lenLimit ↔ s.lenBits.toNat = 2 ^ 64 - 8 := by
  simp [Config.lenLimit, ← BitVec.toNat_inj]

/-- Settles O13: below the limit, with room left, ABSORB takes its byte branch, which writes `Buf` at `Cnt` only. -/
theorem absorbAppendsTheByte : Obligations.AbsorbAppendsTheByte := by
  intro s b f m l c
  refine ⟨absorbEffect b s, exec_absorb f m b, ?_⟩
  rw [absorbEffect_byte b m l c, absorbByte_eq]
  refine ⟨rfl, rfl, Vector.getElem_set_self _, fun i other => ?_, rfl⟩
  exact Vector.getElem_set_ne s.cnt.isLt i.isLt (Fin.val_ne_of_ne other.symm)

/-- Settles O14: below the limit, with 63 bytes held, ABSORB takes its last-byte branch; `Blk` is the same array as the
filled `Buf`, so both are read by one fact. -/
theorem absorbHandsTheBlockOver : Obligations.AbsorbHandsTheBlockOver := by
  intro s b f m l c
  refine ⟨absorbEffect b s, exec_absorb f m b, ?_⟩
  rw [absorbEffect_last b m l c, absorbLast_eq]
  have last : (s.buf.set 63 b)[63] = b := Vector.getElem_set_self _
  have before (i : Fin 64) (hi : i.val < 63) : (s.buf.set 63 b)[i.val] = s.buf[i.val] :=
    Vector.getElem_set_ne _ _ hi.ne'
  exact ⟨rfl, last, last, fun i hi => ⟨before i hi, before i hi⟩, rfl, (not_ready_iff _).mpr (.inl rfl)⟩

/-- Settles O15: at the limit ABSORB takes its length-fault branch, and the recorded word is its own encoding. -/
theorem absorbAtTheLimitFaults : Obligations.AbsorbAtTheLimitFaults := by
  intro s b f m l
  rw [exec_absorb f m, absorbEffect_limit b m ((lenBits_eq_lenLimit_iff s).mpr l), encode_absorb, raiseFault]

/-! ### FINAL (R178, R179) -/

theorem finalBlocks_eq_of_one {s : State} (c : s.cnt.val ≤ 55) : finalBlocks s = { s with
    blk := blockAt (pad (messageTail s) s.lenBits) 0, after := .toDone, cnt := 0, phase := .expand, mode := .busy
    written := { s.written with blk := true, after := true, phase := true } } := by
  simp only [finalBlocks_one c, State.setBlk, State.setAfter, State.setCnt, State.setPhase, State.setMode]

theorem finalBlocks_eq_of_two {s : State} (c : 56 ≤ s.cnt.val) : finalBlocks s = { s with
    blk := blockAt (pad (messageTail s) s.lenBits) 0, buf := blockAt (pad (messageTail s) s.lenBits) 1
    after := .toPad2, cnt := 0, phase := .expand, mode := .busy
    written := { s.written with blk := true, after := true, phase := true, buf := Vector.replicate 64 true } } := by
  simp only [finalBlocks_two c, State.setBlk, State.setBuf, State.setAfter, State.setCnt, State.setPhase, State.setMode]

/-- One block or two, the engine is given the first. -/
theorem finalBlocks_blk (s : State) : (finalBlocks s).blk = blockAt (pad (messageTail s) s.lenBits) 0 := by
  obtain c | c : s.cnt.val ≤ 55 ∨ 56 ≤ s.cnt.val := by omega
  · rw [finalBlocks_eq_of_one c]
  · rw [finalBlocks_eq_of_two c]

/-- Settles O16: FINAL is accepted and passes its mode check, and `Cnt` selects one block or two. -/
theorem finalHandsThePaddingOver : Obligations.FinalHandsThePaddingOver := by
  intro s f m
  have run : exec .final s = .next (finalBlocks s) := by
    rw [exec_of_ready (ready_of_absorb f m), effect, finalEffect_blocks m]
  refine ⟨finalBlocks s, run, finalBlocks_blk s, fun one => ?_, fun two => ?_⟩
  · rw [finalBlocks_eq_of_one one]
    exact ⟨rfl, rfl⟩
  · rw [finalBlocks_eq_of_two two]
    exact ⟨rfl, rfl⟩

end Sys2Proof.Machine
end

section
/-! SUPPORT. The faults of an accepted word and the faulted block (60_exceptions.md R201 to R207); and from these the
obligations O5, O6, O7 and O9. -/

namespace Sys2Proof.Machine

/-! ### A faulted block (R207) -/

theorem ready_of_faulted {s : State} (f : s.faultCode ≠ .none) : s.ready = false :=
  (not_ready_iff s).mpr (.inr f)

theorem dvalid_of_faulted {s : State} (f : s.faultCode ≠ .none) : s.dvalid = false :=
  Bool.eq_false_iff.mpr fun dvalid => f ((dvalid_iff s).mp dvalid).2

theorem engineEnabled_of_faulted {s : State} (f : s.faultCode ≠ .none) : s.engineEnabled = false :=
  Bool.eq_false_iff.mpr fun enabled => f ((engineEnabled_iff s).mp enabled).2

theorem exec_of_held {s : State} (hr : s.ready = false) (i : Instr) : exec i s = .next s := by
  rw [exec_eq, accepted_of_held hr]

theorem internalStep_of_not_engineEnabled {s : State} (e : s.engineEnabled = false) : internalStep s = .next s := by
  simp [internalStep, e]

/-- Settles O9: a fault alone puts READY, DVALID and the engine's enable at 0, and held commands and the waiting block
change nothing. -/
theorem faultedBlockIsQuiescent : Obligations.FaultedBlockIsQuiescent := by
  intro s f
  have ready := ready_of_faulted f
  have enabled := engineEnabled_of_faulted f
  exact ⟨ready, dvalid_of_faulted f, exec_of_held ready, enabled, internalStep_of_not_engineEnabled enabled,
    fun final => f final.2, resetStep_faultCode s⟩

/-! ### The status of a fault (R35) and illegal words (R203) -/

/-- A fault's status is its code and the mode it was raised in; READY and DVALID are 0. -/
theorem raiseFault_status {code : FaultCode} (faulted : code ≠ .none) (c : CommandWord) (s : State) :
    (raiseFault code c s).status = 0#2 ++ code.code ++ s.mode.code ++ 0#1 ++ 0#1 := by
  have f : (raiseFault code c s).faultCode ≠ .none := faulted
  rw [State.status, ready_of_faulted f, dvalid_of_faulted f]
  rfl

/-- Settles O5: the host's step has one branch for an illegal word, and it looks at no mode. -/
theorem illegalWordFaults : Obligations.IllegalWordFaults := by
  intro s c why _ d
  exact ⟨hostStep_illegal d s, fun m => (raiseFault_status (by decide) c s).trans (by rw [m]; rfl)⟩

/-! ### The checks of each command (R202, R204, R205) -/

@[simp] theorem expectedFault_nop (s : State) : expectedFault (encode .nop) s = .none := by
  simp only [expectedFault, decode_encode]

@[simp] theorem expectedFault_init (s : State) : expectedFault (encode .init) s = .none := by
  simp only [expectedFault, decode_encode]

@[simp] theorem expectedFault_absorb (b : Byte) (s : State) : expectedFault (encode (.absorb b)) s =
    if s.mode ≠ .absorb then .badState else if s.lenBits = Config.lenLimit then .lenOverflow else .none := by
  simp only [expectedFault, decode_encode]

@[simp] theorem expectedFault_final (s : State) : expectedFault (encode .final) s =
    if s.mode ≠ .absorb then .badState else .none := by
  simp only [expectedFault, decode_encode]

theorem expectedFault_illegal {c : CommandWord} {why : Illegal} (d : decode c = .illegal why) (s : State) :
    expectedFault c s = .illegalCmd := by
  simp only [expectedFault, d]

theorem finalBlocks_faultCode (s : State) : (finalBlocks s).faultCode = s.faultCode := by
  obtain c | c : s.cnt.val ≤ 55 ∨ 56 ≤ s.cnt.val := by omega
  · rw [finalBlocks_eq_of_one c]
  · rw [finalBlocks_eq_of_two c]

/-- A command passes its checks and leaves `FaultCode` alone, or it does nothing but raise the first that fails. -/
theorem effect_cases (i : Instr) (s : State) :
    (expectedFault (encode i) s = .none ∧ (effect i s).faultCode = s.faultCode) ∨
    effect i s = raiseFault (expectedFault (encode i) s) (encode i) s := by
  cases i with
  | nop => exact .inl ⟨expectedFault_nop s, rfl⟩
  | init => exact .inl ⟨expectedFault_init s, rfl⟩
  | absorb b =>
    rw [effect, expectedFault_absorb]
    obtain ⟨m, e⟩ | ⟨m, l, e⟩ | ⟨m, l, c, e⟩ | ⟨m, l, -, e⟩ := absorbEffect_cases b s <;> rw [e]
    · exact .inr (by simp [m])
    · exact .inr (by simp [m, l])
    · exact .inl ⟨by simp [m, l], by rw [absorbByte_eq]⟩
    · exact .inl ⟨by simp [m, l], by rw [absorbLast_eq]⟩
  | final =>
    rw [effect, expectedFault_final]
    by_cases m : s.mode = .absorb
    · rw [finalEffect_blocks m]
      exact .inl ⟨by simp [m], finalBlocks_faultCode s⟩
    · rw [finalEffect_badState m]
      exact .inr (by simp [m])

theorem effect_faultCode {s : State} (f : s.faultCode = .none) (i : Instr) :
    (effect i s).faultCode = expectedFault (encode i) s := by
  obtain ⟨passed, same⟩ | raised := effect_cases i s
  · rw [passed, same, f]
  · rw [raised, raiseFault_faultCode]

theorem expectedFault_ne_badState {i : Instr} {s : State} (taken : i = .nop ∨ i = .init ∨ s.mode = .absorb) :
    expectedFault (encode i) s ≠ .badState := by
  cases i with
  | nop => simp
  | init => simp
  | absorb b =>
    have m : s.mode = .absorb := by simpa using taken
    by_cases l : s.lenBits = Config.lenLimit <;> simp [m, l]
  | final =>
    have m : s.mode = .absorb := by simpa using taken
    simp [m]

/-- Settles O7: the mode check is the first of ABSORB and FINAL, NOP and INIT have none, and BUSY holds every
command. -/
theorem badStateOutsideAComputation : Obligations.BadStateOutsideAComputation := by
  refine ⟨fun s b f outside => ?refused, fun s i ready taken => ?taken,
    fun s i busy => exec_of_held ((not_ready_iff s).mpr (.inl busy)) i,
    fun s _ idle => (raiseFault_status (by decide) _ s).trans (by rw [idle]; rfl)⟩
  case refused =>
    obtain ⟨notBusy, notAbsorb⟩ : s.mode ≠ .busy ∧ s.mode ≠ .absorb := by
      rcases outside with m | m <;> simp [m]
    have ready : s.ready = true := (ready_iff s).mpr ⟨notBusy, f⟩
    rw [exec_of_ready ready, exec_of_ready ready, effect, effect, absorbEffect_badState b notAbsorb,
      finalEffect_badState notAbsorb, encode_absorb]
    exact ⟨rfl, rfl⟩
  case taken =>
    refine ⟨effect i s, exec_of_ready ready i, ?_⟩
    rw [effect_faultCode ((ready_iff s).mp ready).2]
    refine ⟨expectedFault_ne_badState taken, fun unchecked => ?_⟩
    obtain rfl | rfl := unchecked
    · exact expectedFault_nop s
    · exact expectedFault_init s

/-! ### The fault of an accepted word (R201, R206) -/

/-- An accepted word passes its checks and leaves `FaultCode` alone, or it does nothing but raise the first that
fails. -/
theorem hostStep_of_ready {s : State} (hr : s.ready = true) (c : CommandWord) : ∃ t, hostStep exec c s = .next t ∧
    ((expectedFault c s = .none ∧ t.faultCode = s.faultCode) ∨ t = raiseFault (expectedFault c s) c s) := by
  cases d : decode c with
  | legal i =>
    obtain rfl := decode_eq_legal_iff.mp d
    exact ⟨effect i s, (hostStep_legal d s).trans (exec_of_ready hr i), effect_cases i s⟩
  | illegal why =>
    rw [expectedFault_illegal d]
    exact ⟨_, hostStep_illegal d s, .inr rfl⟩

/-- Settles O6: either no check fails and `FaultCode` stays NONE, or the fault's two writes are all that happens. -/
theorem faultsInOrderAndPrecise : Obligations.FaultsInOrderAndPrecise := by
  intro s c ready
  obtain ⟨t, run, outcome⟩ := hostStep_of_ready ready c
  have code : t.faultCode = expectedFault c s := by
    obtain ⟨passed, same⟩ | rfl := outcome
    · rw [passed, same, ((ready_iff s).mp ready).2]
    · rfl
  refine ⟨t, run, code, fun faulted => ?precise, ?status⟩
  case precise =>
    obtain ⟨passed, -⟩ | raised := outcome
    · exact absurd (code.trans passed) faulted
    · rw [code]
      exact raised
  case status =>
    rw [status_fault, code]
    cases expectedFault c s <;> rfl

end Sys2Proof.Machine
end

section
/-! SUPPORT. The port and reset (44_stream.md section 1, 70_reset_and_hazards.md section 1): one equation for the step by
what the host does, and a faulted block over many steps; and from these the obligations O4, O8, O10, O20, O25, O26 and
O28. Before them O1, O3 and O47, which need no step. -/

namespace Sys2Proof.Machine

/-! ### Encoding and the round formula -/

/-- Settles O1: the decoder is the encoder's inverse, both ways. -/
theorem decodeEncodeAgree : Obligations.DecodeEncodeAgree :=
  ⟨fun i _ => decode_encode i, fun _ _ d => (decode_eq_legal_iff.mp d).symm⟩

/-- Settles O3: eight fixed words, so the decoder is run on each. -/
theorem wordsOfTheTableDecode : Obligations.WordsOfTheTableDecode := by
  unfold Obligations.WordsOfTheTableDecode
  decide

/-- Settles O47: on named variables both sides compute to the same eight words. -/
theorem roundFormula : Obligations.RoundFormula := by
  intro a b c d e f g h kt wt
  exact ⟨rfl, rfl⟩

/-! ### The step by the host's move -/

theorem setMoves_of_no_moves {s : State} (hm : s.moves = []) : s.setMoves s.moves.tail = s := by
  have same : s.moves.tail = s.moves := by rw [hm]; rfl
  rw [same, State.setMoves]

/-- A word offered while READY = 1 is accepted, and the host's move is used up (R170). -/
theorem step_of_offered {s : State} {c : CommandWord} {rest : List CommandWord} (ho : offers s)
    (hr : s.ready = true) (hc : s.commands = c :: rest) :
    step s = hostStep exec c ((s.setMoves s.moves.tail).setCommands rest) := by
  obtain hm | ⟨ms, hm⟩ := ho
  · rw [setMoves_of_no_moves hm]
    simp [step, portStep, hm, offerStep, hc, hr]
  · simp [step, portStep, hm, offerStep, hc, hr]

theorem step_of_offered_legal {s : State} {c : CommandWord} {rest : List CommandWord} {i : Instr} (ho : offers s)
    (hr : s.ready = true) (hc : s.commands = c :: rest) (d : decode c = .legal i) :
    step s = exec i ((s.setMoves s.moves.tail).setCommands rest) := by
  rw [step_of_offered ho hr hc, hostStep_legal d]

/-- Settles O4: the offered word goes to the host's step, and a word placed by `withFetchWord` is the first offered. -/
theorem stepRunsTheDecodedCommand : Obligations.StepRunsTheDecodedCommand := by
  refine ⟨fun s c rest i hr hc d => ⟨fun hm => ?_, fun ms hm => ?_⟩, fun s c rest why hr hc hm d => ?_,
    fun s w i hr d => ?_⟩
  · rw [step_of_offered_legal (.inl hm) hr hc d, setMoves_of_no_moves hm, State.setCommands]
  · rw [step_of_offered_legal (.inr ⟨ms, hm⟩) hr hc d, hm]
    rfl
  · rw [step_of_offered (.inl hm) hr hc, hostStep_illegal d, setMoves_of_no_moves hm]
    rfl
  · have word : decode (BitVec.ofNat 16 (w % 2 ^ 16)) = .legal i := by
      rwa [← BitVec.toNat_ofNat, BitVec.ofNat_toNat, BitVec.setWidth_eq]
    exact step_of_offered_legal (.inr ⟨s.moves, rfl⟩) hr rfl word

theorem step_of_reset {s : State} {ms : List HostMove} (hm : s.moves = .assertReset :: ms) :
    step s = .next (resetStep (s.setMoves ms)) := by
  simp [step, portStep, hm]

/-! ### The block by itself leaves the host's data -/

/-- What the block does by itself leaves the words and the moves of its host. -/
theorem internalStep_host {s t : State} (h : internalStep s = .next t) :
    t.commands = s.commands ∧ t.moves = s.moves := by
  obtain ⟨-, e⟩ | ⟨-, -, e⟩ | ⟨-, -, ht, e⟩ | ⟨-, -, -, e⟩ | ⟨-, -, e⟩ := internalStep_cases s <;> rw [e] at h
  case inr.inr.inr.inl => cases h
  all_goals obtain rfl := Host.Outcome.next.inj h
  · exact ⟨rfl, rfl⟩
  · rw [expandStep_eq]; exact ⟨rfl, rfl⟩
  · rw [roundStepAt_eq]; exact ⟨rfl, rfl⟩
  · cases a : s.after with
    | toAbsorb => rw [foldStep_of_toAbsorb a]; exact ⟨rfl, rfl⟩
    | toPad2 => rw [foldStep_of_toPad2 a]; exact ⟨rfl, rfl⟩
    | toDone => rw [foldStep_of_toDone a]; exact ⟨rfl, rfl⟩

/-- Settles O8: with READY = 0 the host's move, if it makes none, leaves the block to itself, which keeps its words. -/
theorem heldWhileNotReady : Obligations.HeldWhileNotReady := by
  intro s hr
  have alone (hm : s.moves = []) : step s = internalStep s := by
    rw [step_of_not_ready hr (by simp [hm]), takeHostMove, hm]
  exact ⟨exec_of_held hr, alone, fun hm t h => (internalStep_host ((alone hm).symm.trans h)).1⟩

/-- Settles O20: the engine is enabled, its phase selects ROUND, and the index check fails. -/
theorem noRoundBeyondTheLast : Obligations.NoRoundBeyondTheLast := by
  intro s m f p ht
  simp [internalStep, engineEnabled_of_busy m f, engineStep, p, roundStep, ht]

/-! ### Reset (R41, R220) -/

theorem reset_not_written (r : Register) : State.reset.isWritten r = false := by
  cases r <;> simp [State.isWritten, Written.nothing]

theorem reset_status : State.reset.status = 0x01#8 := by decide

/-- Settles O25: the reset values as they stand in `State.reset`, whose mode is not DONE. -/
theorem resetState : Obligations.ResetState :=
  ⟨rfl, rfl, rfl, rfl, rfl, reset_not_written, reset_status, readDigest_of_not_dvalid (by decide)⟩

/-- Settles O26: the reset step answers `State.reset` but for the host's lists, on which no output depends. -/
theorem resetFromAnyState : Obligations.ResetFromAnyState :=
  fun s ms hm => ⟨resetStep (s.setMoves ms), step_of_reset hm, rfl, rfl, rfl, rfl, rfl, reset_not_written, reset_status,
    rfl, rfl, rfl⟩

/-- Settles O28: the two enabling conditions differ in `Mode`, and reset asks for neither. -/
theorem atMostOneAgentSteps : Obligations.AtMostOneAgentSteps := by
  refine fun s => ⟨(ready_iff s).trans and_comm, (engineEnabled_iff s).trans and_comm, fun both => ?_,
    internalStep_of_not_engineEnabled, fun ms hm => step_of_reset hm⟩
  simp [ready_not_engineEnabled both.1] at both

/-! ### A faulted block over many steps (R207) -/

theorem noReset_take {s : State} (hn : noReset s) (n : Nat) : .assertReset ∉ s.moves.take n :=
  fun h => hn (List.mem_of_mem_take h)

theorem noReset_of_tail {s t : State} (hn : noReset s) (hm : t.moves = s.moves.tail) : noReset t := by
  rw [noReset, hm]
  exact fun h => hn (List.mem_of_mem_tail h)

theorem step_of_faulted {s : State} (f : s.faultCode ≠ .none) (hn : noReset s) : step s = .next (takeHostMove s) := by
  rw [step_of_not_ready (ready_of_faulted f) (noReset_take hn 1)]
  exact internalStep_of_not_engineEnabled (engineEnabled_of_faulted (by simpa using f))

/-- However many moves the host makes, they change the host's data only. -/
theorem afterHostMoves_eq (n : Nat) (s : State) : afterHostMoves n s =
    { s with commands := (afterHostMoves n s).commands, moves := s.moves.drop n } := by
  induction n generalizing s with
  | zero => simp [afterHostMoves]
  | succ n ih =>
    rw [afterHostMoves_succ, ih, takeHostMove_eq]
    simp

theorem stepN_of_faulted (n : Nat) {s : State} (f : s.faultCode ≠ .none) (hn : noReset s) :
    stepN n s = .next (afterHostMoves n s) := by
  induction n generalizing s with
  | zero => rfl
  | succ n ih =>
    rw [stepN_succ (step_of_faulted f hn), afterHostMoves_succ]
    exact ih (by simpa using f) (noReset_of_tail hn (by simp))

/-- Settles O10, by induction on the number of steps: each is the host's own move. -/
theorem faultStaysUntilReset : Obligations.FaultStaysUntilReset := by
  refine fun s n f hn => ⟨stepN_of_faulted n f hn, ?_⟩
  rw [afterHostMoves_eq]

end Sys2Proof.Machine
end

section
/-! SUPPORT. The engine over many steps (42_compression.md section 3): a run of the block by itself is not disturbed by the
host's moves short of reset; and from it the obligations O22 and O23. -/

namespace Sys2Proof.Machine

/-! ### The block by itself does not look at the host's data -/

/-- `s` with the host's data of `u`. -/
def State.withHostOf (s u : State) : State := (s.setCommands u.commands).setMoves u.moves

@[simp] theorem withHostOf_ready (s u : State) : (s.withHostOf u).ready = s.ready := rfl
@[simp] theorem withHostOf_moves (s u : State) : (s.withHostOf u).moves = u.moves := rfl

theorem takeHostMove_withHostOf (s u : State) : takeHostMove (s.withHostOf u) = s.withHostOf (takeHostMove u) := by
  unfold takeHostMove
  rw [withHostOf_moves]
  cases u.moves with
  | nil => rfl
  | cons mv ms => cases mv <;> rfl

theorem expandStep_withHostOf (s u : State) : expandStep (s.withHostOf u) = (expandStep s).withHostOf u := by
  rw [expandStep_eq, expandStep_eq]
  rfl

theorem roundStepAt_withHostOf (s u : State) (ht : s.t.val < 64) (ht' : (s.withHostOf u).t.val < 64) :
    roundStepAt (s.withHostOf u) ht' = (roundStepAt s ht).withHostOf u := by
  rw [roundStepAt_eq, roundStepAt_eq]
  rfl

theorem foldStep_withHostOf (s u : State) : foldStep (s.withHostOf u) = (foldStep s).withHostOf u := by
  cases a : s.after with
  | toAbsorb => rw [foldStep_of_toAbsorb a, foldStep_of_toAbsorb (s := s.withHostOf u) a]; rfl
  | toPad2 => rw [foldStep_of_toPad2 a, foldStep_of_toPad2 (s := s.withHostOf u) a]; rfl
  | toDone => rw [foldStep_of_toDone a, foldStep_of_toDone (s := s.withHostOf u) a]; rfl

/-- The block's own step at other host data is the same step, with that data. -/
theorem internalStep_withHostOf {s t : State} (h : internalStep s = .next t) (u : State) :
    internalStep (s.withHostOf u) = .next (t.withHostOf u) := by
  obtain ⟨e, hs⟩ | ⟨e, p, hs⟩ | ⟨e, p, ht, hs⟩ | ⟨-, -, -, hs⟩ | ⟨e, p, hs⟩ := internalStep_cases s <;> rw [hs] at h
  case inr.inr.inr.inl => cases h
  all_goals obtain rfl := Host.Outcome.next.inj h
  · exact internalStep_of_not_engineEnabled e
  · rw [internalStep_of_expand (s := s.withHostOf u) e p, expandStep_withHostOf]
  · have ht' : (s.withHostOf u).t.val < 64 := ht
    rw [internalStep_of_round (s := s.withHostOf u) e p ht', roundStepAt_withHostOf s u ht ht']
  · rw [internalStep_of_fold (s := s.withHostOf u) e p, foldStep_withHostOf]

/-! ### Runs of the block by itself -/

theorem afterHostMoves_succ_last (n : Nat) (s : State) :
    afterHostMoves (n + 1) s = takeHostMove (afterHostMoves n s) :=
  afterHostMoves_add n 1 s

/-- A run of the block by itself is one step longer: while READY = 0 the host, short of reset, only uses up its moves. -/
theorem stepN_succ_of_internalStep {n : Nat} {s t u : State} (run : stepN n s = .next (t.withHostOf (afterHostMoves n s)))
    (hr : t.ready = false) (h : internalStep t = .next u) (hn : .assertReset ∉ s.moves.take (n + 1)) :
    stepN (n + 1) s = .next (u.withHostOf (afterHostMoves (n + 1) s)) := by
  have move : .assertReset ∉ (t.withHostOf (afterHostMoves n s)).moves.take 1 := by
    rw [withHostOf_moves, afterHostMoves_moves, ← Nat.add_sub_cancel_left n 1, ← List.drop_take]
    exact fun h => hn (List.mem_of_mem_drop h)
  have last : step (t.withHostOf (afterHostMoves n s)) = .next (u.withHostOf (afterHostMoves (n + 1) s)) := by
    rw [step_of_not_ready (withHostOf_ready t _ ▸ hr) move, takeHostMove_withHostOf, ← afterHostMoves_succ_last]
    exact internalStep_withHostOf h _
  rw [stepN_add n 1 run, stepN_succ last, stepN_zero]

/-! ### EXPAND and the rounds (R123, R132) -/

/-- `s` after EXPAND and `n` rounds. -/
def afterRounds (s : State) (n : Fin 65) : State :=
  { s with
    w := expand s.blk, v := roundsUpTo (expand s.blk) s.h n.val, t := n
    phase := if n.val = 64 then .fold else .round
    written := { s.written with w := true, v := true, t := true, phase := true } }

theorem internalStep_expand {s : State} (m : s.mode = .busy) (f : s.faultCode = .none) (p : s.phase = .expand) :
    internalStep s = .next (afterRounds s 0) := by
  rw [internalStep_of_expand (engineEnabled_of_busy m f) p, expandStep_eq]
  simp [afterRounds]

theorem internalStep_afterRounds {s : State} (m : s.mode = .busy) (f : s.faultCode = .none) {n : Nat} (hn : n < 64) :
    internalStep (afterRounds s ⟨n, by omega⟩) = .next (afterRounds s ⟨n + 1, by omega⟩) := by
  have enabled : (afterRounds s ⟨n, by omega⟩).engineEnabled = true := engineEnabled_of_busy m f
  have round : (afterRounds s ⟨n, by omega⟩).phase = .round := if_neg hn.ne
  have ht : (afterRounds s ⟨n, by omega⟩).t.val < 64 := hn
  rw [internalStep_of_round enabled round ht, roundStepAt_eq]
  simp [afterRounds, roundsUpTo_succ _ _ hn, hn.ne]

/-- EXPAND and `n` rounds, whatever the host does short of reset. -/
theorem stepN_rounds {s : State} (m : s.mode = .busy) (f : s.faultCode = .none) (p : s.phase = .expand) {n : Nat}
    (hn : n ≤ 64) (hm : .assertReset ∉ s.moves.take (n + 1)) :
    stepN (n + 1) s = .next ((afterRounds s ⟨n, by omega⟩).withHostOf (afterHostMoves (n + 1) s)) := by
  induction n with
  | zero => exact stepN_succ_of_internalStep rfl ((not_ready_iff s).mpr (.inl m)) (internalStep_expand m f p) hm
  | succ n ih =>
    have before := ih (by omega) fun h => hm (List.take_subset_take_left s.moves (by omega) h)
    exact stepN_succ_of_internalStep before ((not_ready_iff _).mpr (.inl m)) (internalStep_afterRounds m f hn) hm

theorem status_of_busy {s : State} (m : s.mode = .busy) (f : s.faultCode = .none) : s.status = 0x08#8 := by
  have ready : s.ready = false := (not_ready_iff s).mpr (.inl m)
  have dvalid : s.dvalid = false := by simp [State.dvalid, m]
  rw [State.status, ready, dvalid, m, f]
  rfl

/-- Settles O22: the run is EXPAND and then the rounds, one at a time, and every other register is the one of `s`. -/
theorem engineRunsRoundsInOrder : Obligations.EngineRunsRoundsInOrder := by
  intro s n m f p hn hm
  exact ⟨_, stepN_rounds m f p hn hm, rfl, rfl, rfl, rfl, status_of_busy m f, rfl, rfl, rfl, rfl, rfl, rfl,
    m, f, rfl, rfl, rfl⟩

/-! ### The whole block (R135, R136) -/

/-- `s` after the 66 engine steps of its block. -/
def afterBlock (s : State) : State := foldStep (afterRounds s 64)

theorem stepN_block {s : State} (m : s.mode = .busy) (f : s.faultCode = .none) (p : s.phase = .expand)
    (hm : .assertReset ∉ s.moves.take 66) :
    stepN 66 s = .next ((afterBlock s).withHostOf (afterHostMoves 66 s)) := by
  have rounds := stepN_rounds m f p le_rfl fun h => hm (List.take_subset_take_left s.moves (by omega) h)
  have fold : internalStep (afterRounds s 64) = .next (afterBlock s) :=
    internalStep_of_fold (engineEnabled_of_busy m f) rfl
  exact stepN_succ_of_internalStep rounds ((not_ready_iff _).mpr (.inl m)) fold hm

theorem afterBlock_of_toAbsorb {s : State} (a : s.after = .toAbsorb) : afterBlock s = { afterRounds s 64 with
    h := compress s.h s.blk, mode := .absorb, written := { (afterRounds s 64).written with h := true } } :=
  foldStep_of_toAbsorb a

theorem afterBlock_of_toPad2 {s : State} (a : s.after = .toPad2) : afterBlock s = { afterRounds s 64 with
    h := compress s.h s.blk, blk := s.buf, after := .toDone, phase := .expand
    written := { (afterRounds s 64).written with h := true, blk := true, after := true, phase := true } } :=
  foldStep_of_toPad2 a

theorem afterBlock_of_toDone {s : State} (a : s.after = .toDone) : afterBlock s = { afterRounds s 64 with
    h := compress s.h s.blk, mode := .done, written := { (afterRounds s 64).written with h := true } } :=
  foldStep_of_toDone a

/-- What the block leaves, whatever the dispatch: the compressed `H`, and the registers that hold the message. -/
theorem afterBlock_frame (s : State) : (afterBlock s).h = compress s.h s.blk ∧ (afterBlock s).buf = s.buf ∧
    (afterBlock s).cnt = s.cnt ∧ (afterBlock s).lenBits = s.lenBits ∧ (afterBlock s).faultCode = s.faultCode ∧
    (afterBlock s).faultCmd = s.faultCmd := by
  cases a : s.after with
  | toAbsorb => rw [afterBlock_of_toAbsorb a]; exact ⟨rfl, rfl, rfl, rfl, rfl, rfl⟩
  | toPad2 => rw [afterBlock_of_toPad2 a]; exact ⟨rfl, rfl, rfl, rfl, rfl, rfl⟩
  | toDone => rw [afterBlock_of_toDone a]; exact ⟨rfl, rfl, rfl, rfl, rfl, rfl⟩

/-- Settles O23: after EXPAND and 64 rounds the sums of FOLD are the compression, and its dispatch is by `After`. -/
theorem blockCompressesInSixtySixSteps : Obligations.BlockCompressesInSixtySixSteps := by
  intro s m f p hm
  obtain ⟨h, buf, cnt, lenBits, faultCode, faultCmd⟩ := afterBlock_frame s
  refine ⟨_, stepN_block m f p hm, h, fun a => ?absorb, fun a => ?pad2, fun a => ?done, buf, cnt, lenBits,
    faultCode.trans f, faultCmd, rfl, rfl⟩
  case absorb => rw [afterBlock_of_toAbsorb a]; exact ⟨rfl, rfl, a⟩
  case pad2 => rw [afterBlock_of_toPad2 a]; exact ⟨m, rfl, rfl, rfl⟩
  case done => rw [afterBlock_of_toDone a]; exact ⟨rfl, rfl, a⟩

end Sys2Proof.Machine
end

section
/-! SUPPORT. The layout of the padding (43_padding.md R150 to R154), the blocks of a byte sequence (R53) and the schedule's
16-word window (41_schedule.md R125); and from these the obligations O49 and O50. -/

namespace Sys2Proof.Machine

/-! ### The layout of the padding -/

/-- Where the length field begins: R152's threshold between one block and two. -/
def lengthStart (c : Nat) : Nat := if c ≤ 55 then 56 else 120

theorem lengthStart_eq {c : Nat} (h : c ≤ 63) : lengthStart c = c + 1 + zeroBytes c := by
  rw [lengthStart, zeroBytes_eq h]
  split <;> omega

/-- The padding is the tail with its mark and zeros, up to `lengthStart`, and then the length. -/
theorem pad_head_length {tail : List Byte} (h : tail.length ≤ 63) :
    (tail ++ [0x80#8] ++ List.replicate (zeroBytes tail.length) 0x00#8).length = lengthStart tail.length := by
  simp [lengthStart_eq h]
  omega

theorem pad_length {tail : List Byte} (h : tail.length ≤ 63) (L : BitVec 64) :
    (pad tail L).length = lengthStart tail.length + 8 := by
  rw [pad, List.length_append, pad_head_length h, be64bytes_length]

theorem pad_drop_lengthStart {tail : List Byte} (h : tail.length ≤ 63) (L : BitVec 64) :
    (pad tail L).drop (lengthStart tail.length) = be64bytes L :=
  List.drop_left' (pad_head_length h)

theorem pad_take_tail (tail : List Byte) (L : BitVec 64) : (pad tail L).take tail.length = tail := by
  simp [pad]

theorem pad_getElem?_mark (tail : List Byte) (L : BitVec 64) : (pad tail L)[tail.length]? = some 0x80#8 := by
  simp [pad]

/-- Between the mark and the length field there are zeros only. -/
theorem pad_getElem?_zero {tail : List Byte} (h : tail.length ≤ 63) (L : BitVec 64) {i : Nat} (lo : tail.length < i)
    (hi : i < lengthStart tail.length) : (pad tail L)[i]? = some 0x00#8 := by
  have inHead : i < (tail ++ [0x80#8] ++ List.replicate (zeroBytes tail.length) 0x00#8).length := by
    rwa [pad_head_length h]
  have inZeros : i - (tail.length + 1) < zeroBytes tail.length := by
    rw [lengthStart_eq h] at hi; omega
  have pastMark : (tail ++ [0x80#8]).length ≤ i := by simpa using lo
  rw [pad, List.getElem?_append_left inHead, List.getElem?_append_right pastMark]
  simpa [List.getElem?_replicate] using inZeros

/-- Settles O50: the two clauses are the two values of `lengthStart`. -/
theorem paddingLayout : Obligations.PaddingLayout := by
  intro bytes L h
  have length := pad_length h L
  have field := pad_drop_lengthStart h L
  have zeros (i : Nat) := pad_getElem?_zero h L (i := i)
  refine ⟨pad_take_tail bytes L, pad_getElem?_mark bytes L, fun one => ?_, fun two => ?_⟩
  · rw [lengthStart, if_pos one] at length field zeros
    exact ⟨length, field, zeros⟩
  · rw [lengthStart, if_neg (by omega)] at length field zeros
    exact ⟨length, field, zeros⟩

/-! ### The blocks of a byte sequence (R53) -/

theorem blockAt_toList {bytes : List Byte} {j : Nat} (h : 64 * j + 64 ≤ bytes.length) :
    (blockAt bytes j).toList = (bytes.drop (64 * j)).take 64 := by
  apply List.ext_getElem (by simp; omega)
  intro i hi _
  have inside : i < 64 := by simpa using hi
  have inBytes : 64 * j + i < bytes.length := by omega
  simp [blockAt, inBytes]

/-- The last block of the padding ends with the length. -/
theorem blockAt_pad_of_one {tail : List Byte} (h : tail.length ≤ 55) (L : BitVec 64) :
    (blockAt (pad tail L) 0).toList.drop 56 = be64bytes L := by
  have length := pad_length (by omega : tail.length ≤ 63) L
  have field := pad_drop_lengthStart (by omega : tail.length ≤ 63) L
  rw [lengthStart, if_pos h] at length field
  rw [blockAt_toList (by omega), Nat.mul_zero, List.drop_zero, List.take_of_length_le (by omega), field]

/-- The second of two padding blocks is zeros and the length (R154). -/
theorem blockAt_pad_of_two {tail : List Byte} (lo : 56 ≤ tail.length) (hi : tail.length ≤ 63) (L : BitVec 64) :
    (blockAt (pad tail L) 1).toList = List.replicate 56 0x00#8 ++ be64bytes L := by
  have length := pad_length hi L
  have field := pad_drop_lengthStart hi L
  have zeros (i : Nat) := pad_getElem?_zero hi L (i := i)
  rw [lengthStart, if_neg (by omega)] at length field zeros
  rw [blockAt_toList (by omega), List.take_of_length_le (by simp; omega), ← field,
    ← List.take_append_drop 56 ((pad tail L).drop (64 * 1)), List.drop_drop]
  congr 1
  apply List.ext_getElem? fun i => ?_
  by_cases inside : i < 56
  · rw [List.getElem?_take_of_lt inside, List.getElem?_drop, zeros _ (by omega) (by omega),
      List.getElem?_replicate_of_lt inside]
  · simp [inside]

/-! ### The schedule's window (R125) -/

theorem expand_recurrence (B : Block) {t : Nat} (h : t + 16 < 64) : (expand B)[t + 16] =
    sigma1 (expand B)[t + 14] + (expand B)[t + 9] + sigma0 (expand B)[t + 1] + (expand B)[t] :=
  ((expandIsTheSchedule B (expand B)).mp rfl).2 ⟨t, by omega⟩

theorem slideWindow_getElem_of_lt (win : Vector Word 16) {i : Nat} (h : i < 15) :
    (slideWindow win)[i] = win[i + 1] := by
  simp [slideWindow, h]

theorem slideWindow_getElem_last (win : Vector Word 16) :
    (slideWindow win)[15] = sigma1 win[14] + win[9] + sigma0 win[1] + win[0] := by
  simp [slideWindow]

/-- Word `i` of the window of round `t` is word `t + i` of the schedule, as far as that goes. -/
theorem windowAt_getElem (B : Block) {t i : Nat} (hi : i < 16) (h : t + i < 64) :
    (windowAt B t)[i] = (expand B)[t + i] := by
  induction t generalizing i with
  | zero =>
    have loaded : (expand B)[i] = blockWord B ⟨i, hi⟩ := (expand_scheduledUpTo B).loaded ⟨i, hi⟩
    simp [windowAt, loaded]
  | succ t ih =>
    rw [windowAt]
    obtain before | rfl : i < 15 ∨ i = 15 := by omega
    · rw [slideWindow_getElem_of_lt _ before, ih (by omega) (by omega)]
      congr 1
      omega
    · rw [slideWindow_getElem_last, ih (by omega) (by omega), ih (by omega) (by omega), ih (by omega) (by omega),
        ih (by omega) (by omega)]
      exact (expand_recurrence B (by omega)).symm

/-- Settles O49: the window's oldest word is its word 0. -/
theorem windowScheduleAgrees : Obligations.WindowScheduleAgrees :=
  fun B t => windowAt_getElem B (by omega) (by omega)

end Sys2Proof.Machine
end

section
/-! SUPPORT. What an accepted word can do, said once, and with it everything a step can do; and from these the frame of the
commands and the transitions of the step, the obligations O17, O29 and O30. -/

namespace Sys2Proof.Machine

/-! ### Everything an accepted word can do (R171 to R179, R201) -/

/-- The state an accepted word makes of `s`: the first fault that applies, or the writes of the command it stands for. -/
inductive Accepts (c : CommandWord) (s : State) : State → Prop where
  | fault (code : expectedFault c s ≠ .none) : Accepts c s (raiseFault (expectedFault c s) c s)
  | nop (word : c = encode .nop) : Accepts c s s
  | init (word : c = encode .init) : Accepts c s (initEffect s)
  | byte (b : Byte) (word : c = encode (.absorb b)) (m : s.mode = .absorb) (l : s.lenBits ≠ Config.lenLimit)
      (cnt : s.cnt.val < 63) : Accepts c s (absorbByte b s cnt)
  | last (b : Byte) (word : c = encode (.absorb b)) (m : s.mode = .absorb) (l : s.lenBits ≠ Config.lenLimit)
      (cnt : s.cnt.val = 63) : Accepts c s (absorbLast b s)
  | one (word : c = encode .final) (m : s.mode = .absorb) (cnt : s.cnt.val ≤ 55) : Accepts c s (finalBlocks s)
  | two (word : c = encode .final) (m : s.mode = .absorb) (cnt : 56 ≤ s.cnt.val) : Accepts c s (finalBlocks s)

theorem accepts_of_raised {c : CommandWord} {s : State} {code : FaultCode} (expected : expectedFault c s = code)
    (raised : code ≠ .none) : Accepts c s (raiseFault code c s) :=
  expected ▸ .fault (expected ▸ raised)

theorem accepts_effect (i : Instr) (s : State) : Accepts (encode i) s (effect i s) := by
  cases i with
  | nop => exact .nop rfl
  | init => exact .init rfl
  | absorb b =>
    rw [effect]
    obtain ⟨m, e⟩ | ⟨m, l, e⟩ | ⟨m, l, c, e⟩ | ⟨m, l, c, e⟩ := absorbEffect_cases b s <;> rw [e]
    · exact accepts_of_raised (by simp [m]) (by decide)
    · exact accepts_of_raised (by simp [m, l]) (by decide)
    · exact .byte b rfl m l c
    · exact .last b rfl m l c
  | final =>
    rw [effect]
    by_cases m : s.mode = .absorb
    · rw [finalEffect_blocks m]
      obtain c | c : s.cnt.val ≤ 55 ∨ 56 ≤ s.cnt.val := by omega
      · exact .one rfl m c
      · exact .two rfl m c
    · rw [finalEffect_badState m]
      exact accepts_of_raised (by simp [m]) (by decide)

theorem hostStep_accepts {s : State} (hr : s.ready = true) (c : CommandWord) :
    ∃ t, hostStep exec c s = .next t ∧ Accepts c s t := by
  cases d : decode c with
  | legal i =>
    obtain rfl := decode_eq_legal_iff.mp d
    exact ⟨effect i s, (hostStep_legal d s).trans (exec_of_ready hr i), accepts_effect i s⟩
  | illegal why => exact ⟨_, hostStep_illegal d s, accepts_of_raised (expectedFault_illegal d s) (by decide)⟩

/-- Everything a step that answers a next state can be, with the state it answers. -/
theorem step_next_cases {s t : State} (h : step s = .next t) :
    (∃ ms, s.moves = .assertReset :: ms ∧ t = resetStep (s.setMoves ms)) ∨
    (∃ c rest, s.ready = true ∧ s.commands = c :: rest ∧
      Accepts c ((s.setMoves s.moves.tail).setCommands rest) t) ∨
    (∃ cs, internalStep ((s.setMoves s.moves.tail).setCommands cs) = .next t) := by
  obtain ⟨ms, hm, e⟩ | ⟨c, rest, -, hr, hc, e⟩ | ⟨cs, -, -, e⟩ := step_cases s <;> rw [e] at h
  · exact .inl ⟨ms, hm, (Host.Outcome.next.inj h).symm⟩
  · obtain ⟨t', ht', accepts⟩ := hostStep_accepts (s := (s.setMoves s.moves.tail).setCommands rest) hr c
    obtain rfl := Host.Outcome.next.inj (ht'.symm.trans h)
    exact .inr (.inl ⟨c, rest, hr, hc, accepts⟩)
  · exact .inr (.inr ⟨cs, h⟩)

/-! ### The frame of the commands (20_memory.md R57) -/

theorem encode_injective {i j : Instr} (h : encode i = encode j) : i = j :=
  Cmd.legal.inj (by rw [← decode_encode i, h, decode_encode])

/-- No command writes what the engine works on or what the host holds. -/
theorem Accepts.engine_frame {c : CommandWord} {s t : State} (h : Accepts c s t) :
    t.v = s.v ∧ t.w = s.w ∧ t.t = s.t ∧ t.commands = s.commands ∧ t.moves = s.moves ∧
    t.written.v = s.written.v ∧ t.written.w = s.written.w ∧ t.written.t = s.written.t := by
  cases h with
  | one _ _ cnt => simp [finalBlocks_one cnt]
  | two _ _ cnt => simp [finalBlocks_two cnt]
  | _ => simp [initEffect, absorbByte, absorbLast]

theorem Accepts.h_eq {c : CommandWord} {s t : State} (h : Accepts c s t) (hc : c ≠ encode .init) : t.h = s.h := by
  cases h with
  | init word => exact absurd word hc
  | one _ _ cnt => simp [finalBlocks_one cnt]
  | two _ _ cnt => simp [finalBlocks_two cnt]
  | _ => simp [absorbByte, absorbLast]

theorem Accepts.lenBits_eq {c : CommandWord} {s t : State} (h : Accepts c s t)
    (hc : c = encode .nop ∨ c = encode .final) : t.lenBits = s.lenBits := by
  cases h with
  | init word => rw [word] at hc; exact absurd hc (by decide)
  | byte b word => rw [word] at hc; simpa using hc.imp encode_injective encode_injective
  | last b word => rw [word] at hc; simpa using hc.imp encode_injective encode_injective
  | one _ _ cnt => simp [finalBlocks_one cnt]
  | two _ _ cnt => simp [finalBlocks_two cnt]
  | _ => simp

theorem Accepts.buf_eq {c : CommandWord} {s t : State} (h : Accepts c s t)
    (hc : c = encode .nop ∨ c = encode .init) : t.buf = s.buf := by
  cases h with
  | byte b word => rw [word] at hc; simpa using hc.imp encode_injective encode_injective
  | last b word => rw [word] at hc; simpa using hc.imp encode_injective encode_injective
  | two word => rw [word] at hc; exact absurd hc (by decide)
  | one _ _ cnt => simp [finalBlocks_one cnt]
  | _ => simp [initEffect]

/-- ABSORB writes no byte of `Buf` but the one at `Cnt`, which is the last where it fills the block. -/
theorem Accepts.buf_getElem_eq {c : CommandWord} {s t : State} (h : Accepts c s t) {b : Byte}
    (hc : c = encode (.absorb b)) {j : Fin 64} (hj : j ≠ s.cnt) : t.buf[j.val] = s.buf[j.val] := by
  have other : s.cnt.val ≠ j.val := Fin.val_ne_of_ne hj.symm
  cases h with
  | byte => rw [absorbByte_eq]; exact Vector.getElem_set_ne s.cnt.isLt j.isLt other
  | last _ _ _ _ cnt => rw [absorbLast_eq]; exact Vector.getElem_set_ne (by decide) j.isLt (cnt ▸ other)
  | two word => rw [hc] at word; exact absurd (encode_injective word) (by simp)
  | one _ _ cnt => simp [finalBlocks_one cnt]
  | _ => simp [initEffect]

/-- A command that leaves the block open hands nothing over. -/
theorem Accepts.block_eq {c : CommandWord} {s t : State} (h : Accepts c s t) (accepting : t.mode ≠ .busy) :
    t.blk = s.blk ∧ t.after = s.after ∧ t.phase = s.phase := by
  cases h with
  | last => exact absurd rfl accepting
  | one _ _ cnt => simp [finalBlocks_one cnt] at accepting
  | two _ _ cnt => simp [finalBlocks_two cnt] at accepting
  | _ => simp [initEffect, absorbByte]

/-- A raised fault is all that happened. -/
theorem Accepts.precise {c : CommandWord} {s t : State} (h : Accepts c s t) (raised : t.faultCode ≠ s.faultCode) :
    t.mode = s.mode ∧ t.buf = s.buf ∧ t.cnt = s.cnt ∧ t.lenBits = s.lenBits := by
  cases h with
  | fault => exact ⟨rfl, rfl, rfl, rfl⟩
  | one => exact absurd (finalBlocks_faultCode s) raised
  | two => exact absurd (finalBlocks_faultCode s) raised
  | _ => simp [initEffect, absorbByte, absorbLast] at raised

/-- Settles O17: a held command leaves everything, and an accepted one is framed clause by clause. -/
theorem commandsLeaveTheRestAlone : Obligations.CommandsLeaveTheRestAlone := by
  intro i s t run
  cases ready : s.ready with
  | false =>
    obtain rfl := Host.Outcome.next.inj ((exec_of_held ready i).symm.trans run)
    simp
  | true =>
    obtain rfl := Host.Outcome.next.inj ((exec_of_ready ready i).symm.trans run)
    have notBusy : s.mode ≠ .busy := ((ready_iff s).mp ready).1
    have accepts := accepts_effect i s
    obtain ⟨v, w, t, commands, moves, wv, ww, wt⟩ := accepts.engine_frame
    refine ⟨v, w, t, commands, moves, wv, ww, wt, fun hi => ?_, fun hi => ?_, fun hi => ?_, fun b hi j hj => ?_,
      fun handed => ?_, accepts.precise⟩
    · exact accepts.h_eq fun word => hi (encode_injective word)
    · exact accepts.lenBits_eq (hi.imp (congrArg encode) (congrArg encode))
    · exact accepts.buf_eq (hi.imp (congrArg encode) (congrArg encode))
    · exact accepts.buf_getElem_eq (congrArg encode hi) hj
    · exact accepts.block_eq (handed.resolve_right notBusy)

/-! ### The transitions of the step (44_stream.md section 4) -/

/-- Settles O29: with a valid digest the engine rests, so only reset and an accepted word can act, and of the words only
INIT and a fault do anything. -/
theorem digestStaysUntilInitOrReset : Obligations.DigestStaysUntilInitOrReset := by
  intro s t valid run
  obtain ⟨m, f⟩ := (dvalid_iff s).mp valid
  have same {u : State} (mode : u.mode = s.mode) (code : u.faultCode = s.faultCode) (h : u.h = s.h) :
      u.dvalid = true ∧ u.readDigest = s.readDigest := by
    have valid' : u.dvalid = true := (dvalid_iff u).mpr ⟨mode.trans m, code.trans f⟩
    exact ⟨valid', by rw [readDigest_of_dvalid valid, readDigest_of_dvalid valid', h]⟩
  obtain ⟨ms, hm, -⟩ | ⟨c, rest, -, hc, accepts⟩ | ⟨cs, run⟩ := step_next_cases run
  · exact .inr (.inl ⟨ms, hm⟩)
  · cases accepts with
    | fault raised => exact .inr (.inr (.inr ⟨c, rest, hc, raised, rfl, rfl⟩))
    | nop => exact .inl (same rfl rfl rfl)
    | init word => subst word; exact .inr (.inr (.inl ⟨rest, hc, rfl, rfl⟩))
    | byte _ _ m' | last _ _ m' | one _ m' | two _ m' => exact absurd (m.symm.trans m') (by decide)
  · have rests : ((s.setMoves s.moves.tail).setCommands cs).engineEnabled = false := by
      simp [State.engineEnabled, m]
    obtain rfl := Host.Outcome.next.inj ((internalStep_of_not_engineEnabled rests).symm.trans run)
    exact .inl (same rfl rfl rfl)

/-- The engine leaves `Mode` but for the dispatch of a FOLD that ends a block for good. -/
theorem internalStep_mode {s t : State} (run : internalStep s = .next t) : t.mode = s.mode ∨
    (s.mode = .busy ∧ s.faultCode = .none ∧ s.phase = .fold ∧
      ((s.after = .toAbsorb ∧ t.mode = .absorb) ∨ (s.after = .toDone ∧ t.mode = .done))) := by
  obtain ⟨-, e⟩ | ⟨-, -, e⟩ | ⟨-, -, ht, e⟩ | ⟨-, -, -, e⟩ | ⟨enabled, p, e⟩ := internalStep_cases s <;> rw [e] at run
  case inr.inr.inr.inl => cases run
  all_goals obtain rfl := Host.Outcome.next.inj run
  · exact .inl rfl
  · rw [expandStep_eq]; exact .inl rfl
  · rw [roundStepAt_eq]; exact .inl rfl
  · obtain ⟨m, f⟩ := (engineEnabled_iff s).mp enabled
    cases a : s.after with
    | toAbsorb => rw [foldStep_of_toAbsorb a]; exact .inr ⟨m, f, p, .inl ⟨rfl, rfl⟩⟩
    | toPad2 => rw [foldStep_of_toPad2 a]; exact .inl rfl
    | toDone => rw [foldStep_of_toDone a]; exact .inr ⟨m, f, p, .inr ⟨rfl, rfl⟩⟩

theorem finalBlocks_mode_after (s : State) : (finalBlocks s).mode = .busy ∧
    (finalBlocks s).after = if s.cnt.val ≤ 55 then .toDone else .toPad2 := by
  by_cases c : s.cnt.val ≤ 55
  · simp [finalBlocks_one c, c]
  · simp [finalBlocks_two (Nat.not_le.mp c), c]

/-- Settles O30: reset, each accepted word, and the engine by itself. -/
theorem modeChangesOnlyByTheTable : Obligations.ModeChangesOnlyByTheTable := by
  intro s t run
  obtain ⟨ms, hm, rfl⟩ | ⟨c, rest, hr, hc, accepts⟩ | ⟨cs, run⟩ := step_next_cases run
  · exact .inr (.inl ⟨rfl, ms, hm⟩)
  · have f : s.faultCode = .none := ((ready_iff s).mp hr).2
    cases accepts with
    | fault => exact .inl rfl
    | nop => exact .inl rfl
    | init word => subst word; exact .inr (.inr (.inl ⟨rfl, hr, rest, hc⟩))
    | byte => exact .inl rfl
    | last b word m l cnt =>
      exact .inr (.inr (.inr (.inl ⟨rfl, m, f, .inl ⟨rfl, cnt, l, b, rest, word ▸ hc⟩⟩)))
    | one word m | two word m =>
      subst word
      obtain ⟨busy, after⟩ := finalBlocks_mode_after ((s.setMoves s.moves.tail).setCommands rest)
      exact .inr (.inr (.inr (.inl ⟨busy, m, f, .inr ⟨after, rest, hc⟩⟩)))
  · exact (internalStep_mode run).imp_right fun fold => .inr (.inr (.inr fold))

end Sys2Proof.Machine
end

section
/-! SUPPORT. The invariant of the machine: it holds at reset, every accepted word and every step of the engine keeps it, and
what it says of the markers, of `T` and of `LenBits`; and from these the obligations O31 to O35 and O24. -/

namespace Sys2Proof.Machine

/-! ### What each part of the invariant depends on -/

theorem FaultRecorded.of_eq {s t : State} (h : FaultRecorded s) (code : t.faultCode = s.faultCode)
    (cmd : t.faultCmd = s.faultCmd) (mode : t.mode = s.mode) (lenBits : t.lenBits = s.lenBits) : FaultRecorded t := by
  cases h
  constructor <;> simpa only [code, cmd, mode, lenBits]

theorem CountsAgree.of_eq {s t : State} (h : CountsAgree s) (mode : t.mode = s.mode) (cnt : t.cnt = s.cnt)
    (lenBits : t.lenBits = s.lenBits) (after : t.after = s.after) : CountsAgree t := by
  cases h
  constructor <;> simpa only [mode, cnt, lenBits, after]

theorem LengthFieldInPlace.of_eq {s t : State} (h : LengthFieldInPlace s) (mode : t.mode = s.mode)
    (after : t.after = s.after) (blk : t.blk = s.blk) (buf : t.buf = s.buf) (lenBits : t.lenBits = s.lenBits) :
    LengthFieldInPlace t := by
  cases h
  constructor <;> simpa only [mode, after, blk, buf, lenBits]

/-- The host's data takes no part in the invariant. -/
theorem MachineInv.setHost {s : State} (inv : MachineInv s) (ms : List HostMove) (cs : List CommandWord) :
    MachineInv ((s.setMoves ms).setCommands cs) where
  fault := inv.fault.of_eq rfl rfl rfl rfl
  counts := inv.counts.of_eq rfl rfl rfl rfl
  engine := ⟨inv.engine.round_t, inv.engine.fold_t, inv.engine.schedule, inv.engine.working⟩
  length := inv.length.of_eq rfl rfl rfl rfl rfl
  written := ⟨inv.written.digest_state, inv.written.buffered, inv.written.handed_over, inv.written.expanded,
    inv.written.second_block⟩

theorem MachineInv.faultCode_of_busy {s : State} (inv : MachineInv s) (m : s.mode = .busy) : s.faultCode = .none :=
  inv.fault.busy_none m

/-! ### The invariant mode by mode: only the clauses of that mode are left -/

theorem faultRecorded_of_none {s : State} (code : s.faultCode = .none) (cmd : s.faultCmd = 0x0000#16) :
    FaultRecorded s := by
  constructor <;> simp [code, cmd]

theorem engineOnCourse_of_not_busy {s : State} (m : s.mode ≠ .busy) : EngineOnCourse s := by
  constructor <;> simp [m]

theorem engineOnCourse_of_expand {s : State} (p : s.phase = .expand) : EngineOnCourse s := by
  constructor <;> simp [p]

theorem lengthFieldInPlace_of_not_busy {s : State} (m : s.mode ≠ .busy) : LengthFieldInPlace s := by
  constructor <;> simp [m]

theorem machineInv_of_absorb {s : State} (m : s.mode = .absorb) (code : s.faultCode = .none)
    (cmd : s.faultCmd = 0x0000#16) (whole : s.lenBits.toNat % 8 = 0) (cnt : s.lenBits.toNat / 8 % 64 = s.cnt.val)
    (h : s.written.h = true) (buf : ∀ i : Fin 64, i.val < s.cnt.val → s.written.buf[i.val] = true) : MachineInv s where
  fault := faultRecorded_of_none code cmd
  counts := ⟨whole, by simp [m], fun _ => cnt, by simp [m], by simp [m]⟩
  engine := engineOnCourse_of_not_busy (by simp [m])
  length := lengthFieldInPlace_of_not_busy (by simp [m])
  written := ⟨fun _ => h, fun _ => buf, by simp [m], by simp [m], by simp [m]⟩

theorem machineInv_of_done {s : State} (m : s.mode = .done) (code : s.faultCode = .none)
    (cmd : s.faultCmd = 0x0000#16) (whole : s.lenBits.toNat % 8 = 0) (cnt : s.cnt.val = 0) (h : s.written.h = true) :
    MachineInv s where
  fault := faultRecorded_of_none code cmd
  counts := ⟨whole, by simp [m], by simp [m], fun _ => cnt, by simp [m]⟩
  engine := engineOnCourse_of_not_busy (by simp [m])
  length := lengthFieldInPlace_of_not_busy (by simp [m])
  written := ⟨fun _ => h, by simp [m], by simp [m], by simp [m], by simp [m]⟩

/-- A block has just been handed over. -/
theorem machineInv_of_handed {s : State} (m : s.mode = .busy) (p : s.phase = .expand) (code : s.faultCode = .none)
    (cmd : s.faultCmd = 0x0000#16) (whole : s.lenBits.toNat % 8 = 0) (cnt : s.cnt.val = 0)
    (full : s.after = .toAbsorb → s.lenBits.toNat % 512 = 0) (length : LengthFieldInPlace s)
    (h : s.written.h = true) (handed : s.written.phase = true ∧ s.written.after = true ∧ s.written.blk = true)
    (second : s.after = .toPad2 → ∀ i : Fin 64, s.written.buf[i.val] = true) : MachineInv s where
  fault := faultRecorded_of_none code cmd
  counts := ⟨whole, by simp [m], by simp [m], fun _ => cnt, fun _ => full⟩
  engine := engineOnCourse_of_expand p
  length := length
  written := ⟨fun _ => h, by simp [m], fun _ => handed, by simp [p], fun _ => second⟩

/-! ### Reset -/

/-- Settles O31: in IDLE without a fault every clause but three is about another mode or code. -/
theorem invariantAtReset : Obligations.InvariantAtReset where
  fault := faultRecorded_of_none rfl rfl
  counts := ⟨rfl, fun _ => rfl, nofun, fun _ => rfl, nofun⟩
  engine := engineOnCourse_of_not_busy (by decide)
  length := lengthFieldInPlace_of_not_busy (by decide)
  written := ⟨fun idle => absurd rfl idle, nofun, nofun, nofun, nofun⟩

/-! ### Accepted words -/

/-- The record of a fault raised on an accepted word says what the checks of R202 have found. -/
theorem faultRecorded_raiseFault {s : State} (hr : s.ready = true) (c : CommandWord)
    (raised : expectedFault c s ≠ .none) : FaultRecorded (raiseFault (expectedFault c s) c s) := by
  have notBusy : s.mode ≠ .busy := ((ready_iff s).mp hr).1
  have outside (m : s.mode ≠ .absorb) : s.mode = .idle ∨ s.mode = .done := by cases h : s.mode <;> simp_all
  have exists_absorb (b : Byte) : ∃ b', encode (.absorb b) = encode (.absorb b') := ⟨b, rfl⟩
  cases d : decode c with
  | illegal why =>
    rw [expectedFault_illegal d]
    constructor <;> simp [d, notBusy]
  | legal i =>
    obtain rfl := decode_eq_legal_iff.mp d
    cases i with
    | nop => simp at raised
    | init => simp at raised
    | absorb b =>
      rw [expectedFault_absorb] at raised ⊢
      by_cases m : s.mode = .absorb
      · have l : s.lenBits = Config.lenLimit := by simpa [m] using raised
        constructor <;> simp [m, l, exists_absorb b]
      · constructor <;> simp [m, outside m, notBusy, exists_absorb b]
    | final =>
      have m : s.mode ≠ .absorb := by simpa using raised
      rw [expectedFault_final]
      constructor <;> simp [m, outside m, notBusy]

/-- A fault step writes the record and nothing else. -/
theorem MachineInv.raiseFault {s : State} (inv : MachineInv s) {code : FaultCode} {c : CommandWord}
    (fault : FaultRecorded (raiseFault code c s)) : MachineInv (raiseFault code c s) where
  fault := fault
  counts := inv.counts.of_eq rfl rfl rfl rfl
  engine := ⟨inv.engine.round_t, inv.engine.fold_t, inv.engine.schedule, inv.engine.working⟩
  length := inv.length.of_eq rfl rfl rfl rfl rfl
  written := ⟨inv.written.digest_state, inv.written.buffered, inv.written.handed_over, inv.written.expanded,
    inv.written.second_block⟩

/-- Below the limit, a count of whole bytes has room for one more. -/
theorem toNat_add_eight {L : BitVec 64} (whole : L.toNat % 8 = 0) (l : L ≠ Config.lenLimit) :
    (L + 8#64).toNat = L.toNat + 8 := by
  have below : L.toNat ≠ 2 ^ 64 - 8 := fun h => l (BitVec.eq_of_toNat_eq h)
  have := L.isLt
  rw [BitVec.toNat_add, BitVec.toNat_ofNat]
  omega

theorem absorbByte_inv {s : State} (inv : MachineInv s) (f : s.faultCode = .none) (m : s.mode = .absorb)
    (l : s.lenBits ≠ Config.lenLimit) (b : Byte) (cnt : s.cnt.val < 63) : MachineInv (absorbByte b s cnt) := by
  have whole := inv.counts.whole_bytes
  have count := inv.counts.absorb_cnt m
  have len := toNat_add_eight whole l
  rw [absorbByte_eq]
  refine machineInv_of_absorb m f (inv.fault.none_cmd f) ?_ ?_ (inv.written.digest_state (by simp [m])) fun i hi => ?_
  · rw [len]; omega
  · rw [len]; simp only; omega
  · by_cases last : i.val = s.cnt.val
    · simp [last]
    · have before : i.val < s.cnt.val := by simp only at hi; omega
      exact (Vector.getElem_set_ne s.cnt.isLt i.isLt (Ne.symm last)).trans (inv.written.buffered m i before)

theorem absorbLast_inv {s : State} (inv : MachineInv s) (f : s.faultCode = .none) (m : s.mode = .absorb)
    (l : s.lenBits ≠ Config.lenLimit) (b : Byte) (cnt : s.cnt.val = 63) : MachineInv (absorbLast b s) := by
  have whole := inv.counts.whole_bytes
  have count := inv.counts.absorb_cnt m
  have len := toNat_add_eight whole l
  rw [absorbLast_eq]
  refine machineInv_of_handed rfl rfl f (inv.fault.none_cmd f) ?_ rfl (fun _ => ?_) ⟨nofun, nofun⟩
    (inv.written.digest_state (by simp [m])) ⟨rfl, rfl, rfl⟩ nofun
  · rw [len]; omega
  · rw [len]; omega

theorem finalBlocks_inv {s : State} (inv : MachineInv s) (f : s.faultCode = .none) (m : s.mode = .absorb) :
    MachineInv (finalBlocks s) := by
  have cmd := inv.fault.none_cmd f
  have whole := inv.counts.whole_bytes
  have h := inv.written.digest_state (by simp [m])
  obtain c | c : s.cnt.val ≤ 55 ∨ 56 ≤ s.cnt.val := by omega
  · rw [finalBlocks_eq_of_one c]
    have field := blockAt_pad_of_one (by simpa using c : (messageTail s).length ≤ 55) s.lenBits
    exact machineInv_of_handed rfl rfl f cmd whole rfl nofun ⟨fun _ _ => field, nofun⟩ h ⟨rfl, rfl, rfl⟩ nofun
  · rw [finalBlocks_eq_of_two c]
    have field := blockAt_pad_of_two (by simpa using c : 56 ≤ (messageTail s).length) (by simp; omega) s.lenBits
    exact machineInv_of_handed rfl rfl f cmd whole rfl nofun ⟨nofun, fun _ _ => field⟩ h ⟨rfl, rfl, rfl⟩
      fun _ i => by simp

theorem Accepts.inv {c : CommandWord} {s t : State} (accepts : Accepts c s t) (inv : MachineInv s)
    (hr : s.ready = true) : MachineInv t := by
  have f : s.faultCode = .none := ((ready_iff s).mp hr).2
  cases accepts with
  | fault raised => exact inv.raiseFault (faultRecorded_raiseFault hr c raised)
  | nop => exact inv
  | init =>
    rw [initEffect_eq]
    exact machineInv_of_absorb rfl f (inv.fault.none_cmd f) (by simp) (by simp) rfl nofun
  | byte b _ m l cnt => exact absorbByte_inv inv f m l b cnt
  | last b _ m l cnt => exact absorbLast_inv inv f m l b cnt
  | one _ m | two _ m => exact finalBlocks_inv inv f m

/-! ### The engine -/

theorem expandStep_inv {s : State} (inv : MachineInv s) (m : s.mode = .busy) : MachineInv (expandStep s) := by
  obtain ⟨-, after, blk⟩ := inv.written.handed_over m
  rw [expandStep_eq]
  exact ⟨inv.fault.of_eq rfl rfl rfl rfl, inv.counts.of_eq rfl rfl rfl rfl,
    ⟨fun _ _ => Nat.zero_lt_succ 63, nofun, fun _ _ => rfl, fun _ _ => (roundsUpTo_zero _ _).symm⟩,
    inv.length.of_eq rfl rfl rfl rfl rfl,
    ⟨inv.written.digest_state, inv.written.buffered,
      fun _ => ⟨rfl, after, blk⟩, fun _ _ => ⟨rfl, rfl, rfl⟩, inv.written.second_block⟩⟩

/-- A round leaves `V` one round further on. -/
theorem roundStepAt_engineOnCourse {s : State} (inv : EngineOnCourse s) (m : s.mode = .busy) (p : s.phase = .round)
    (ht : s.t.val < 64) : EngineOnCourse (roundStepAt s ht) := by
  have expanded : s.phase ≠ .expand := by simp [p]
  have schedule := inv.schedule m expanded
  have working := inv.working m expanded
  rw [roundStepAt_eq]
  refine ⟨fun _ round => ?_, fun _ fold => ?_, fun _ _ => schedule, fun _ _ => ?_⟩
  · have before : s.t.val ≠ 63 := fun last => by simp [last] at round
    simp only
    omega
  · have last : s.t.val = 63 := by
      by_contra before
      simp [before, p] at fold
    simp [last]
  · simp only [working, roundsUpTo_succ _ _ ht]

theorem roundStepAt_inv {s : State} (inv : MachineInv s) (m : s.mode = .busy) (p : s.phase = .round)
    (ht : s.t.val < 64) : MachineInv (roundStepAt s ht) := by
  have engine := roundStepAt_engineOnCourse inv.engine m p ht
  obtain ⟨-, w, -⟩ := inv.written.expanded m (by simp [p])
  obtain ⟨phase, after, blk⟩ := inv.written.handed_over m
  rw [roundStepAt_eq] at engine ⊢
  exact ⟨inv.fault.of_eq rfl rfl rfl rfl, inv.counts.of_eq rfl rfl rfl rfl, engine,
    inv.length.of_eq rfl rfl rfl rfl rfl,
    ⟨inv.written.digest_state, inv.written.buffered, fun _ => ⟨by simp [phase], after, blk⟩,
      fun _ _ => ⟨rfl, w, rfl⟩, inv.written.second_block⟩⟩

theorem foldStep_inv {s : State} (inv : MachineInv s) (m : s.mode = .busy) : MachineInv (foldStep s) := by
  have f := inv.faultCode_of_busy m
  have cmd := inv.fault.none_cmd f
  have whole := inv.counts.whole_bytes
  have empty : s.cnt.val = 0 := inv.counts.elsewhere_empty (by simp [m])
  cases a : s.after with
  | toAbsorb =>
    have full := inv.counts.handed_over_whole m a
    rw [foldStep_of_toAbsorb a]
    refine machineInv_of_absorb rfl f cmd whole ?_ rfl fun i hi => ?_
    · simp only
      omega
    · exact absurd hi (by simp [empty])
  | toPad2 =>
    have field := inv.length.second_block m a
    rw [foldStep_of_toPad2 a]
    refine machineInv_of_handed m rfl f cmd whole empty nofun ⟨fun _ _ => ?_, nofun⟩ rfl ⟨rfl, rfl, rfl⟩ nofun
    simp only [field]
    exact List.drop_left' (by simp)
  | toDone =>
    rw [foldStep_of_toDone a]
    exact machineInv_of_done rfl f cmd whole empty rfl

theorem internalStep_inv {s t : State} (inv : MachineInv s) (run : internalStep s = .next t) : MachineInv t := by
  obtain ⟨-, e⟩ | ⟨en, -, e⟩ | ⟨en, p, ht, e⟩ | ⟨-, -, -, e⟩ | ⟨en, -, e⟩ := internalStep_cases s <;> rw [e] at run
  case inr.inr.inr.inl => cases run
  all_goals obtain rfl := Host.Outcome.next.inj run
  · exact inv
  · exact expandStep_inv inv ((engineEnabled_iff s).mp en).1
  · exact roundStepAt_inv inv ((engineEnabled_iff s).mp en).1 p ht
  · exact foldStep_inv inv ((engineEnabled_iff s).mp en).1

/-- Settles O32: the host's data takes no part in the invariant, and reset, each accepted word and the block by itself keep
it. -/
theorem everyStepKeepsTheInvariant : Obligations.EveryStepKeepsTheInvariant := by
  intro s t inv run
  obtain ⟨ms, -, rfl⟩ | ⟨c, rest, hr, -, accepts⟩ | ⟨cs, run⟩ := step_next_cases run
  · exact invariantAtReset.setHost ms s.commands
  · exact accepts.inv (inv.setHost _ _) hr
  · exact internalStep_inv (inv.setHost _ _) run

/-! ### What the invariant gives -/

/-- Settles O34: the one stop of a step is a round without an index, which the engine on course never is at. -/
theorem machineNeverStops : Obligations.MachineNeverStops := by
  intro s inv
  obtain ⟨ms, -, e⟩ | ⟨c, rest, -, hr, -, e⟩ | ⟨cs, -, -, e⟩ := step_cases s
  · exact ⟨_, e⟩
  · obtain ⟨t, run, -⟩ := hostStep_accepts (s := (s.setMoves s.moves.tail).setCommands rest) hr c
    exact ⟨t, e.trans run⟩
  · obtain ⟨-, run⟩ | ⟨-, -, run⟩ | ⟨-, -, _, run⟩ | ⟨en, p, ht, -⟩ | ⟨-, -, run⟩ :=
      internalStep_cases ((s.setMoves s.moves.tail).setCommands cs)
    · exact ⟨_, e.trans run⟩
    · exact ⟨_, e.trans run⟩
    · exact ⟨_, e.trans run⟩
    · have inRange := inv.engine.round_t ((engineEnabled_iff _).mp en).1 p
      exact absurd ht inRange.ne
    · exact ⟨_, e.trans run⟩

/-- Settles O35: below the limit either branch of ABSORB adds the 8 bits of its byte, and whole bytes leave room for them. -/
theorem lengthNeverWraps : Obligations.LengthNeverWraps := by
  intro s b inv m f l
  have len := toNat_add_eight inv.counts.whole_bytes l
  refine ⟨_, exec_absorb f m b, ?_⟩
  obtain c | c : s.cnt.val < 63 ∨ s.cnt.val = 63 := by omega
  · rw [absorbEffect_byte b m l c, absorbByte_eq]
    exact ⟨len, f⟩
  · rw [absorbEffect_last b m l c, absorbLast_eq]
    exact ⟨len, f⟩

/-! ### Reads of UNWRITTEN registers (R22) -/

theorem checkedStep_of_written {s : State} (h : ∀ r ∈ nextReads s, s.isWritten r = true) :
    checkedStep s = .ok (step s) := by
  have none : (nextReads s).find? (fun r => !s.isWritten r) = none :=
    List.find?_eq_none.mpr fun r hr => by simp [h r hr]
  rw [checkedStep, none]

theorem exists_of_mem_bufferRegisters {n : Nat} {r : Register} (h : r ∈ bufferRegisters n) :
    ∃ i : Fin 64, i.val < n ∧ r = .buf i := by
  obtain ⟨i, hi, rfl⟩ := List.mem_map.mp h
  obtain ⟨k, hk, rfl⟩ := List.mem_take_iff_getElem.mp hi
  exact ⟨_, by simp at hk ⊢; omega, rfl⟩

theorem commandReads_written {s : State} (inv : MachineInv s) (i : Instr) :
    ∀ r ∈ commandReads s i, s.isWritten r = true := by
  intro r hr
  have buffered {n : Nat} (m : s.mode = .absorb) (hn : n ≤ s.cnt.val) (h : r ∈ bufferRegisters n) :
      s.isWritten r = true := by
    obtain ⟨i, hi, rfl⟩ := exists_of_mem_bufferRegisters h
    exact inv.written.buffered m i (by omega)
  cases i with
  | nop => simp [commandReads] at hr
  | init => simp [commandReads] at hr
  | absorb b =>
    rw [commandReads] at hr
    split at hr
    next h => exact buffered h.1 (by omega) hr
    next => simp at hr
  | final =>
    rw [commandReads] at hr
    split at hr
    next m => exact buffered m le_rfl hr
    next => simp at hr

theorem engineReads_written {s : State} (inv : MachineInv s) : ∀ r ∈ engineReads s, s.isWritten r = true := by
  intro r hr
  cases en : s.engineEnabled with
  | false => simp [engineReads, en] at hr
  | true =>
    have m : s.mode = .busy := ((engineEnabled_iff s).mp en).1
    have h := inv.written.digest_state (by simp [m])
    obtain ⟨phase, after, blk⟩ := inv.written.handed_over m
    cases p : s.phase with
    | expand =>
      obtain rfl | rfl | rfl : r = .phase ∨ r = .blk ∨ r = .h := by simpa [engineReads, en, p] using hr
      · exact phase
      · exact blk
      · exact h
    | round =>
      obtain ⟨v, w, t⟩ := inv.written.expanded m (by simp [p])
      obtain rfl | rfl | rfl | rfl : r = .phase ∨ r = .v ∨ r = .t ∨ r = .w := by simpa [engineReads, en, p] using hr
      · exact phase
      · exact v
      · exact t
      · exact w
    | fold =>
      obtain ⟨v, -, -⟩ := inv.written.expanded m (by simp [p])
      obtain rfl | rfl | rfl | rfl | ⟨a, second⟩ : r = .phase ∨ r = .h ∨ r = .v ∨ r = .after ∨
          (s.after = .toPad2 ∧ r ∈ bufferRegisters 64) := by
        simpa [engineReads, en, p] using hr
      · exact phase
      · exact h
      · exact v
      · exact after
      · obtain ⟨i, -, rfl⟩ := exists_of_mem_bufferRegisters second
        exact inv.written.second_block m a i

theorem offerReads_written {s : State} (inv : MachineInv s) : ∀ r ∈ offerReads s, s.isWritten r = true := by
  unfold offerReads
  split
  · exact engineReads_written inv
  · split
    · split
      next i _ => exact commandReads_written inv i
      next => simp
    · exact engineReads_written inv

/-- Settles O33: by the host's move, each step reads only what a command or the engine reads, and that is written. -/
theorem noStepReadsAnUnwrittenRegister : Obligations.NoStepReadsAnUnwrittenRegister := by
  intro s inv
  apply checkedStep_of_written
  unfold nextReads
  split
  · exact offerReads_written inv
  · exact offerReads_written inv
  · exact engineReads_written inv
  · exact engineReads_written inv
  · simp

/-! ### BUSY ends (R139) -/

/-- The engine steps left until the block accepts commands again. -/
def engineStepsLeft (s : State) : Nat :=
  (match s.phase with | .expand => 66 | .round => 65 - s.t.val | .fold => 1) + if s.after = .toPad2 then 66 else 0

theorem engineStepsLeft_le (s : State) : engineStepsLeft s ≤ 132 := by
  unfold engineStepsLeft
  cases s.phase <;> simp only <;> split <;> omega

theorem engineStepsLeft_pos {s : State} (inv : MachineInv s) (m : s.mode = .busy) : 0 < engineStepsLeft s := by
  unfold engineStepsLeft
  cases p : s.phase with
  | expand => simp
  | round =>
    have ht := inv.engine.round_t m p
    simp only
    omega
  | fold => simp

/-- A busy block of the invariant takes an engine step: one less is left, or the block is ready again. -/
theorem internalStep_of_busy {s : State} (inv : MachineInv s) (m : s.mode = .busy) : ∃ t, internalStep s = .next t ∧
    (t.ready = true ∨ (t.mode = .busy ∧ engineStepsLeft t + 1 = engineStepsLeft s)) := by
  have f := inv.faultCode_of_busy m
  have en := engineEnabled_of_busy m f
  cases p : s.phase with
  | expand =>
    refine ⟨_, internalStep_of_expand en p, .inr ?_⟩
    rw [expandStep_eq]
    refine ⟨m, ?_⟩
    simp [engineStepsLeft, p]
    omega
  | round =>
    have ht := inv.engine.round_t m p
    refine ⟨_, internalStep_of_round en p ht, .inr ?_⟩
    rw [roundStepAt_eq]
    refine ⟨m, ?_⟩
    by_cases last : s.t.val = 63
    · simp [engineStepsLeft, p, last]
      omega
    · simp [engineStepsLeft, p, last]
      omega
  | fold =>
    refine ⟨_, internalStep_of_fold en p, ?_⟩
    cases a : s.after with
    | toAbsorb =>
      rw [foldStep_of_toAbsorb a]
      exact .inl ((ready_iff _).mpr ⟨by simp, f⟩)
    | toPad2 =>
      rw [foldStep_of_toPad2 a]
      exact .inr ⟨m, by simp [engineStepsLeft, p, a]⟩
    | toDone =>
      rw [foldStep_of_toDone a]
      exact .inl ((ready_iff _).mpr ⟨by simp, f⟩)

theorem takeHostMove_inv {s : State} (inv : MachineInv s) : MachineInv (takeHostMove s) := by
  rw [takeHostMove_eq]
  exact inv.setHost s.moves.tail (takeHostMove s).commands

/-- By induction on the steps left: each step of a busy block that is not reset leaves one less. -/
theorem ready_within {k : Nat} {s : State} (inv : MachineInv s) (m : s.mode = .busy) (hn : noReset s)
    (hk : engineStepsLeft s ≤ k) : ∃ n t, n ≤ k ∧ stepN n s = .next t ∧ t.ready = true := by
  induction k generalizing s with
  | zero => exact absurd (engineStepsLeft_pos inv m) (by omega)
  | succ k ih =>
    obtain ⟨t, run, next⟩ := internalStep_of_busy (takeHostMove_inv inv) (by simpa using m)
    have first : step s = .next t := by
      rw [step_of_not_ready ((not_ready_iff s).mpr (.inl m)) (noReset_take hn 1), run]
    obtain ready | ⟨busy, left⟩ := next
    · exact ⟨1, t, by omega, by rw [stepN_succ first, stepN_zero], ready⟩
    · have same : engineStepsLeft (takeHostMove s) = engineStepsLeft s := by simp [engineStepsLeft]
      have moves : t.moves = s.moves.tail := by rw [(internalStep_host run).2, takeHostMove_moves]
      obtain ⟨n, u, hn', run', ready⟩ := ih (everyStepKeepsTheInvariant s t inv first) busy
        (noReset_of_tail hn moves) (by omega)
      exact ⟨n + 1, u, by omega, by rw [stepN_succ first, run'], ready⟩

/-- Settles O24: no more than two blocks' engine steps are left. -/
theorem busyEndsWithinTwoBlocks : Obligations.BusyEndsWithinTwoBlocks :=
  fun s inv m hn => ready_within inv m hn (engineStepsLeft_le s)

end Sys2Proof.Machine
end

section
/-! SUPPORT. Whole messages (44_stream.md sections 2 and 4): the blocks of a growing message, ABSORB and FINAL with the bytes
`m` absorbed, streams with pauses, and the words of HASH; and from these the obligations O36 to O39. -/

namespace Sys2Proof.Machine

/-! ### The blocks of a growing message -/

/-- More bytes do not change the blocks a message has in full. -/
theorem blockAt_append {bytes : List Byte} {j : Nat} (h : 64 * j + 64 ≤ bytes.length) (more : List Byte) :
    blockAt (bytes ++ more) j = blockAt bytes j := by
  ext1 i hi
  have inside : 64 * j + i < bytes.length := by omega
  simp [blockAt, inside, List.getElem?_append_left inside]

theorem compressBlocks_append (h : Words8) {bytes : List Byte} {n : Nat} (hn : 64 * n ≤ bytes.length)
    (more : List Byte) : compressBlocks h (bytes ++ more) n = compressBlocks h bytes n := by
  induction n with
  | zero => simp
  | succ n ih => rw [compressBlocks_succ, compressBlocks_succ, ih (by omega), blockAt_append (by omega)]

theorem tailBytes_append_of_room {m : List Byte} (h : m.length % 64 ≠ 63) (b : Byte) :
    tailBytes (m ++ [b]) = tailBytes m ++ [b] := by
  have sameBlocks : (m ++ [b]).length / 64 = m.length / 64 := by simp; omega
  rw [tailBytes, tailBytes, sameBlocks, List.drop_append_of_le_length (by omega)]

theorem tailBytes_of_full {m : List Byte} (h : m.length % 64 = 0) : tailBytes m = [] :=
  List.drop_eq_nil_of_le (by omega)

/-- A byte written after the first `c` extends them by itself. -/
theorem take_toList_set (buf : Block) {c : Nat} (hc : c < 64) (b : Byte) :
    (buf.set c b).toList.take (c + 1) = buf.toList.take c ++ [b] := by
  have inside : c < (buf.toList.set c b).length := by simpa using hc
  rw [Vector.toList_set, List.take_add_one, List.getElem?_eq_getElem inside, List.take_set_of_le le_rfl]
  simp

/-- The buffer that the 64th byte fills is the message's next block. -/
theorem blockAt_of_filled {m : List Byte} (h : m.length % 64 = 63) {buf : Block}
    (held : buf.toList.take 63 = tailBytes m) (b : Byte) : blockAt (m ++ [b]) (m.length / 64) = buf.set 63 b := by
  have filled : (buf.set 63 b).toList = tailBytes m ++ [b] := by
    rw [← held, ← take_toList_set buf (by decide), List.take_of_length_le (by simp)]
  apply Vector.toList_inj.mp
  rw [filled, blockAt_toList (by simp; omega), List.drop_append_of_le_length (by omega), tailBytes,
    List.take_of_length_le (by simp; omega)]

/-! ### ABSORB with the bytes `m` absorbed (R175, R176) -/

theorem Absorbed.ready {m : List Byte} {s : State} (h : Absorbed m s) : s.ready = true :=
  ready_of_absorb h.noFault h.mode

theorem Absorbed.setHost {m : List Byte} {s : State} (h : Absorbed m s) (ms : List HostMove) (cs : List CommandWord) :
    Absorbed m ((s.setMoves ms).setCommands cs) :=
  ⟨h.short, h.mode, h.noFault, h.lenBits, h.cnt, h.buf, h.h⟩

theorem Absorbed.lenBits_toNat {m : List Byte} {s : State} (h : Absorbed m s) : s.lenBits.toNat = 8 * m.length := by
  have short : m.length < 2 ^ 61 := h.short
  rw [h.lenBits, BitVec.toNat_ofNat, Nat.mod_eq_of_lt (by omega)]

theorem Absorbed.lenBits_ne_limit {m : List Byte} {s : State} (h : Absorbed m s)
    (room : m.length + 1 < Config.messageLimit) : s.lenBits ≠ Config.lenLimit := by
  have short : m.length + 1 < 2 ^ 61 := room
  rw [Ne, lenBits_eq_lenLimit_iff, h.lenBits_toNat]
  omega

theorem Absorbed.lenBits_add_eight {m : List Byte} {s : State} (h : Absorbed m s) (b : Byte) :
    s.lenBits + 8#64 = BitVec.ofNat 64 (8 * (m ++ [b]).length) := by
  rw [h.lenBits, ← BitVec.ofNat_add, List.length_append, Nat.mul_add]
  rfl

theorem absorbByte_absorbed {m : List Byte} {s : State} (h : Absorbed m s) (room : m.length + 1 < Config.messageLimit)
    (b : Byte) (cnt : s.cnt.val < 63) : Absorbed (m ++ [b]) (absorbByte b s cnt) := by
  have count := h.cnt
  have free : m.length % 64 ≠ 63 := by omega
  have sameBlocks : (m ++ [b]).length / 64 = m.length / 64 := by simp; omega
  rw [absorbByte_eq]
  refine ⟨by simpa using room, h.mode, h.noFault, h.lenBits_add_eight b, ?cnt, ?buf, ?h⟩
  case cnt => simp; omega
  case buf =>
    rw [tailBytes_append_of_room free, ← h.buf]
    exact take_toList_set s.buf s.cnt.isLt b
  case h => rw [sameBlocks, compressBlocks_append _ (by omega), ← h.h]

/-- The 64th byte fills the message's next block; once that is compressed the buffer is empty. -/
theorem absorbed_of_compressed {m : List Byte} {s t : State} {b : Byte} (h : Absorbed m s)
    (room : m.length + 1 < Config.messageLimit) (full : m.length % 64 = 63) (mode : t.mode = .absorb)
    (noFault : t.faultCode = .none) (lenBits : t.lenBits = s.lenBits + 8#64) (cnt : t.cnt = 0)
    (compressed : t.h = compress s.h (s.buf.set 63 b)) : Absorbed (m ++ [b]) t := by
  have oneMore : (m ++ [b]).length / 64 = m.length / 64 + 1 := by simp; omega
  have empty : (m ++ [b]).length % 64 = 0 := by simp; omega
  have held : s.buf.toList.take 63 = tailBytes m := by rw [← h.buf, messageTail, h.cnt, full]
  refine ⟨by simpa using room, mode, noFault, lenBits.trans (h.lenBits_add_eight b), ?cnt, ?buf, ?h⟩
  case cnt => rw [cnt, empty]; rfl
  case buf => rw [tailBytes_of_full empty, messageTail, cnt]; rfl
  case h =>
    rw [oneMore, compressBlocks_succ, compressBlocks_append _ (by omega), blockAt_of_filled full held, ← h.h, compressed]

/-! ### Hosts that only pause -/

/-- The host neither takes a word back nor asserts reset. -/
def Patient (s : State) : Prop := ∀ mv ∈ s.moves, mv = .offer ∨ mv = .pause

theorem patient_of_no_moves {s : State} (hm : s.moves = []) : Patient s := by
  simp [Patient, hm]

theorem Patient.noReset {s : State} (hp : Patient s) : noReset s :=
  fun h => by simpa using hp _ h

theorem Patient.of_drop {s t : State} (hp : Patient s) {n : Nat} (hm : t.moves = s.moves.drop n) : Patient t :=
  fun mv h => hp mv (List.mem_of_mem_drop (hm ▸ h))

theorem Patient.takeHostMove_commands {s : State} (hp : Patient s) : (takeHostMove s).commands = s.commands := by
  unfold takeHostMove
  cases hm : s.moves with
  | nil => rfl
  | cons mv ms =>
    obtain rfl | rfl := hp mv (by simp [hm])
    · rfl
    · rfl

theorem Patient.afterHostMoves_commands {s : State} (hp : Patient s) (n : Nat) :
    (afterHostMoves n s).commands = s.commands := by
  induction n generalizing s with
  | zero => rfl
  | succ n ih =>
    rw [afterHostMoves_succ, ih (hp.of_drop (n := 1) (by simp)), hp.takeHostMove_commands]

theorem absorbLast_frame (b : Byte) (s : State) : (absorbLast b s).h = s.h ∧ (absorbLast b s).faultCode = s.faultCode ∧
    (absorbLast b s).commands = s.commands ∧ (absorbLast b s).moves = s.moves := by
  simp [absorbLast]

/-- An offered ABSORB extends the message, and the host's moves are used up one a step. -/
theorem Absorbed.stepN_absorb {m : List Byte} {s : State} {b : Byte} {rest : List CommandWord} (h : Absorbed m s)
    (room : m.length + 1 < Config.messageLimit) (hc : s.commands = encode (.absorb b) :: rest) (ho : offers s)
    (hp : Patient s) :
    ∃ t, stepN (if m.length % 64 = 63 then 67 else 1) s = .next t ∧ Absorbed (m ++ [b]) t ∧ t.commands = rest ∧
      t.moves = s.moves.drop (if m.length % 64 = 63 then 67 else 1) := by
  have h' := h.setHost s.moves.tail rest
  have first := step_of_offered_legal ho h.ready hc (decode_encode _)
  rw [exec_absorb h'.noFault h'.mode] at first
  obtain c | c : s.cnt.val < 63 ∨ s.cnt.val = 63 := by omega
  · have free : m.length % 64 ≠ 63 := h.cnt ▸ c.ne
    rw [absorbEffect_byte b h'.mode (h.lenBits_ne_limit room) c] at first
    rw [if_neg free, stepN_succ first]
    exact ⟨_, rfl, absorbByte_absorbed h' room b c, rfl, List.drop_one.symm⟩
  · have full : m.length % 64 = 63 := h.cnt ▸ c
    rw [absorbEffect_last b h'.mode (h.lenBits_ne_limit room) c] at first
    obtain ⟨sameH, noFault, commands, moves⟩ := absorbLast_frame b ((s.setMoves s.moves.tail).setCommands rest)
    have patient : Patient (absorbLast b ((s.setMoves s.moves.tail).setCommands rest)) :=
      hp.of_drop (n := 1) (moves.trans List.drop_one.symm)
    obtain ⟨t, run, compressed, absorb, -, -, -, cnt, lenBits, f, -, words, left⟩ :=
      blockCompressesInSixtySixSteps _ rfl (noFault.trans h'.noFault) rfl (noReset_take patient.noReset 66)
    rw [if_pos full, stepN_succ first]
    refine ⟨t, run, absorbed_of_compressed h' room full (absorb rfl).1 f lenBits cnt (sameH ▸ compressed), ?_, ?_⟩
    · rw [words, patient.afterHostMoves_commands, commands]
      rfl
    · rw [left, afterHostMoves_moves, moves]
      exact List.drop_tail

/-- Settles O36: a host without moves offers, and has none left afterwards. -/
theorem absorbExtendsTheMessage : Obligations.AbsorbExtendsTheMessage := by
  intro s m b rest h room hc hm
  obtain ⟨t, run, absorbed, commands, moves⟩ := h.stepN_absorb room hc (.inl hm) (patient_of_no_moves hm)
  exact ⟨t, run, absorbed, commands, by rw [moves, hm, List.drop_nil]⟩

/-! ### Streams with pauses (R53) -/

theorem streamBytes_nop (ws : List CommandWord) : streamBytes (encode .nop :: ws) = streamBytes ws := by
  simp [streamBytes]

theorem streamBytes_absorb (b : Byte) (ws : List CommandWord) :
    streamBytes (encode (.absorb b) :: ws) = b :: streamBytes ws := by
  simp [streamBytes]

/-- The host's pauses pass, and the block waits. -/
theorem Absorbed.reaches_offer {m : List Byte} {s : State} (h : Absorbed m s) (hp : Patient s) :
    ∃ n t, stepN n s = .next t ∧ Absorbed m t ∧ t.commands = s.commands ∧ Patient t ∧ offers t := by
  induction hm : s.moves generalizing s with
  | nil => exact ⟨0, s, rfl, h, rfl, hp, .inl hm⟩
  | cons mv ms ih =>
    obtain rfl | rfl := hp mv (by simp [hm])
    · exact ⟨0, s, rfl, h, rfl, hp, .inr ⟨ms, hm⟩⟩
    · have waits : step s = .next (s.setMoves ms) := by
        have rests : (s.setMoves ms).engineEnabled = false := ready_not_engineEnabled h.ready
        simp only [step, portStep, hm, internalStep_of_not_engineEnabled rests]
      have patient : Patient (s.setMoves ms) := hp.of_drop (n := 1) (by simp [hm])
      obtain ⟨n, t, run, rest⟩ := ih (h.setHost ms s.commands) patient rfl
      exact ⟨n + 1, t, (stepN_succ waits n).trans run, rest⟩

/-- By induction on the stream: the pauses before a word pass, and then NOP changes nothing and ABSORB adds its byte. -/
theorem Absorbed.stepN_stream {m : List Byte} {s : State} (h : Absorbed m s)
    (words : ∀ c ∈ s.commands, c = encode .nop ∨ ∃ b, c = encode (.absorb b)) (hp : Patient s)
    (room : m.length + (streamBytes s.commands).length < Config.messageLimit) :
    ∃ n t, stepN n s = .next t ∧ Absorbed (m ++ streamBytes s.commands) t ∧ t.commands = [] := by
  induction hc : s.commands generalizing s m with
  | nil => exact ⟨0, s, rfl, by simpa [streamBytes] using h, hc⟩
  | cons c cs ih =>
    rw [hc] at words room
    obtain ⟨k, u, toOffer, hu, same, patient, ho⟩ := h.reaches_offer hp
    have hcu : u.commands = c :: cs := same.trans hc
    have words' : ∀ c ∈ cs, c = encode .nop ∨ ∃ b, c = encode (.absorb b) := fun c h => words c (by simp [h])
    obtain rfl | ⟨b, rfl⟩ := words c (by simp)
    · rw [streamBytes_nop] at room ⊢
      have first := step_of_offered_legal ho hu.ready hcu (decode_encode _)
      rw [exec_nop] at first
      obtain ⟨n, t, run, result⟩ := ih (hu.setHost u.moves.tail cs) words'
        (patient.of_drop (n := 1) List.drop_one.symm) room rfl
      exact ⟨k + (n + 1), t, by rw [stepN_add k _ toOffer, stepN_succ first, run], result⟩
    · rw [streamBytes_absorb, List.length_cons] at room
      obtain ⟨v, absorb, hv, commands, moves⟩ := hu.stepN_absorb (by omega) hcu ho patient
      obtain ⟨n, t, run, absorbed, done⟩ := ih hv (commands ▸ words') (patient.of_drop moves)
        (by rw [commands]; simp; omega) commands
      refine ⟨k + (_ + n), t, by rw [stepN_add k _ toOffer, stepN_add _ n absorb, run], ?_, done⟩
      rw [streamBytes_absorb]
      simpa using absorbed

/-- Settles O37: the bytes of the stream are added word by word, wherever the host pauses. -/
theorem chunkingDoesNotMatter : Obligations.ChunkingDoesNotMatter :=
  fun _ _ h words patient room => h.stepN_stream words patient room

/-! ### FINAL with the bytes `m` absorbed (R179, R183) -/

theorem Absorbed.padding_eq {m : List Byte} {s : State} (h : Absorbed m s) :
    pad (messageTail s) s.lenBits = messagePadding m := by
  rw [h.buf, h.lenBits, messagePadding]

theorem Absorbed.digest_eq {m : List Byte} {s : State} (h : Absorbed m s) :
    digest m = compressBlocks s.h (messagePadding m) ((messagePadding m).length / 64) := by
  rw [h.h, digest]

theorem tailBytes_length (m : List Byte) : (tailBytes m).length = m.length % 64 := by
  simp [tailBytes]
  omega

theorem messagePadding_length (m : List Byte) : (messagePadding m).length = lengthStart (m.length % 64) + 8 := by
  rw [messagePadding, pad_length (by rw [tailBytes_length]; omega), tailBytes_length]

theorem digest_of_one {m : List Byte} {s : State} (h : Absorbed m s) (one : m.length % 64 ≤ 55) :
    digest m = compress s.h (blockAt (messagePadding m) 0) := by
  rw [h.digest_eq, messagePadding_length, lengthStart, if_pos one]
  exact compressBlocks_succ _ _ 0

theorem digest_of_two {m : List Byte} {s : State} (h : Absorbed m s) (two : 56 ≤ m.length % 64) :
    digest m = compress (compress s.h (blockAt (messagePadding m) 0)) (blockAt (messagePadding m) 1) := by
  rw [h.digest_eq, messagePadding_length, lengthStart, if_neg (by omega)]
  exact compressBlocks_succ _ _ 1

/-- The state is final with the digest of `m`, whose bits are counted. -/
structure FinishedWith (m : List Byte) (s : State) : Prop where
  final : s.final
  h : s.h = digest m
  lenBits : s.lenBits.toNat = 8 * m.length

/-- The engine folds the last block of the message's padding. -/
theorem Patient.stepN_last_block {m : List Byte} {s : State} (hp : Patient s) (mode : s.mode = .busy)
    (f : s.faultCode = .none) (p : s.phase = .expand) (a : s.after = .toDone) (h : compress s.h s.blk = digest m)
    (lenBits : s.lenBits.toNat = 8 * m.length) :
    ∃ t, stepN 66 s = .next t ∧ FinishedWith m t ∧ t.commands = s.commands := by
  obtain ⟨t, run, compressed, -, -, done, -, -, sameLen, f', -, words, -⟩ :=
    blockCompressesInSixtySixSteps s mode f p (noReset_take hp.noReset 66)
  exact ⟨t, run, ⟨⟨(done a).1, f'⟩, compressed.trans h, sameLen ▸ lenBits⟩, words.trans (hp.afterHostMoves_commands 66)⟩

theorem Absorbed.step_final {m : List Byte} {s : State} {rest : List CommandWord} (h : Absorbed m s)
    (hc : s.commands = encode .final :: rest) (ho : offers s) :
    step s = .next (finalBlocks ((s.setMoves s.moves.tail).setCommands rest)) := by
  have h' := h.setHost s.moves.tail rest
  rw [step_of_offered_legal ho h.ready hc (decode_encode _), exec_of_ready h'.ready, effect, finalEffect_blocks h'.mode]

theorem finalBlocks_frame (s : State) : (finalBlocks s).h = s.h ∧ (finalBlocks s).lenBits = s.lenBits ∧
    (finalBlocks s).phase = .expand ∧ (finalBlocks s).commands = s.commands ∧ (finalBlocks s).moves = s.moves := by
  by_cases c : s.cnt.val ≤ 55
  · simp [finalBlocks_one c]
  · simp [finalBlocks_two (Nat.not_le.mp c)]

/-- The engine folds the one or two blocks that FINAL hands over. -/
theorem Absorbed.stepN_padding {m : List Byte} {s : State} (h : Absorbed m s) (hp : Patient s) :
    ∃ t, stepN (if m.length % 64 ≤ 55 then 66 else 132) (finalBlocks s) = .next t ∧ FinishedWith m t ∧
      t.commands = s.commands := by
  obtain ⟨busy, after⟩ := finalBlocks_mode_after s
  obtain ⟨sameH, lenBits, expand, commands, moves⟩ := finalBlocks_frame s
  have f : (finalBlocks s).faultCode = .none := (finalBlocks_faultCode s).trans h.noFault
  have patient : Patient (finalBlocks s) := hp.of_drop (n := 0) moves
  have block : (finalBlocks s).blk = blockAt (messagePadding m) 0 := by rw [finalBlocks_blk, h.padding_eq]
  have counted : (finalBlocks s).lenBits.toNat = 8 * m.length := lenBits ▸ h.lenBits_toNat
  rw [h.cnt] at after
  by_cases one : m.length % 64 ≤ 55
  · rw [if_pos one] at after ⊢
    rw [← commands]
    exact patient.stepN_last_block busy f expand after (by rw [sameH, block, digest_of_one h one]) counted
  · rw [if_neg one] at after ⊢
    have two : 56 ≤ m.length % 64 := Nat.not_le.mp one
    have second : (finalBlocks s).buf = blockAt (messagePadding m) 1 := by
      rw [finalBlocks_eq_of_two (h.cnt ▸ two), ← h.padding_eq]
    obtain ⟨u, first, compressed, -, pad2, -, -, -, sameLen, fu, -, words, left⟩ :=
      blockCompressesInSixtySixSteps _ busy f expand (noReset_take patient.noReset 66)
    obtain ⟨busy', blk', after', expand'⟩ := pad2 after
    have patient' : Patient u := patient.of_drop (left.trans (afterHostMoves_moves 66 _))
    obtain ⟨t, run, finished, taken⟩ := patient'.stepN_last_block busy' fu expand' after'
      (by rw [compressed, blk', sameH, block, second, digest_of_two h two]) (sameLen ▸ counted)
    refine ⟨t, (stepN_add 66 66 first).trans run, finished, ?_⟩
    rw [taken, words, patient.afterHostMoves_commands, commands]

theorem FinishedWith.readDigest {m : List Byte} {s : State} (h : FinishedWith m s) :
    s.readDigest = .ok (digestBits (digest m)) := by
  rw [readDigest_of_dvalid ((dvalid_iff s).mpr h.final), h.h]

theorem FinishedWith.status {m : List Byte} {s : State} (h : FinishedWith m s) : s.status = 0x0F#8 := by
  obtain ⟨mode, f⟩ := h.final
  have ready : s.ready = true := (ready_iff s).mpr ⟨by simp [mode], f⟩
  rw [State.status, ready, (dvalid_iff s).mpr h.final, mode, f]
  rfl

/-- An offered FINAL ends the message. -/
theorem Absorbed.stepN_final {m : List Byte} {s : State} {rest : List CommandWord} (h : Absorbed m s)
    (hc : s.commands = encode .final :: rest) (hm : s.moves = []) :
    ∃ t, stepN (if m.length % 64 ≤ 55 then 67 else 133) s = .next t ∧ FinishedWith m t ∧ t.commands = rest := by
  have patient : Patient ((s.setMoves s.moves.tail).setCommands rest) := patient_of_no_moves (by simp [hm])
  obtain ⟨t, run, finished, commands⟩ := (h.setHost s.moves.tail rest).stepN_padding patient
  refine ⟨t, ?_, finished, commands⟩
  have steps : (if m.length % 64 ≤ 55 then 67 else 133) = (if m.length % 64 ≤ 55 then 66 else 132) + 1 := by
    split <;> rfl
  rw [steps, stepN_succ (h.step_final hc (.inl hm)), run]

/-- Settles O38: FINAL hands the padding over, and the engine folds its blocks. -/
theorem finalGivesTheDigest : Obligations.FinalGivesTheDigest := by
  intro s m rest h hc hm
  obtain ⟨t, run, finished, commands⟩ := h.stepN_final hc hm
  exact ⟨t, run, finished.final, finished.h, finished.readDigest, finished.lenBits, commands⟩

/-! ### The words of HASH (R183) -/

/-- INIT opens a computation with no byte absorbed. -/
theorem initEffect_absorbed {s : State} (f : s.faultCode = .none) : Absorbed [] (initEffect s) :=
  ⟨by decide, rfl, f, rfl, rfl, rfl, rfl⟩

/-- By induction on the bytes: each is one step, and 66 more where it fills a block. -/
theorem Absorbed.stepN_absorbWords {m bytes : List Byte} {s : State} {rest : List CommandWord} (h : Absorbed m s)
    (room : m.length + bytes.length < Config.messageLimit) (hc : s.commands = absorbWords bytes ++ rest)
    (hm : s.moves = []) :
    ∃ t, stepN (bytes.length + 66 * ((m.length + bytes.length) / 64 - m.length / 64)) s = .next t ∧
      Absorbed (m ++ bytes) t ∧ t.commands = rest ∧ t.moves = [] := by
  induction bytes generalizing s m with
  | nil => exact ⟨s, by simp, by simpa using h, hc, hm⟩
  | cons b bytes ih =>
    rw [List.length_cons] at room
    obtain ⟨u, first, hu, commands, moves⟩ := h.stepN_absorb (by omega) hc (.inl hm) (patient_of_no_moves hm)
    obtain ⟨t, run, absorbed, result⟩ := ih hu (by simp; omega) commands (by rw [moves, hm, List.drop_nil])
    refine ⟨t, ?_, by simpa using absorbed, result⟩
    have steps : (b :: bytes).length + 66 * ((m.length + (b :: bytes).length) / 64 - m.length / 64) =
        (if m.length % 64 = 63 then 67 else 1) +
          (bytes.length + 66 * (((m ++ [b]).length + bytes.length) / 64 - (m ++ [b]).length / 64)) := by
      simp only [List.length_cons, List.length_append, List.length_nil]
      split <;> omega
    rw [steps, stepN_add _ _ first, run]

/-- Settles O39: INIT, then the bytes, then FINAL. -/
theorem hashWordsGiveTheDigest : Obligations.HashWordsGiveTheDigest := by
  intro s m rest short hr hc hm
  have f : s.faultCode = .none := ((ready_iff s).mp hr).2
  have words : s.commands = encode .init :: (absorbWords m ++ encode .final :: rest) := by simpa [hashWords] using hc
  have hr' : ((s.setMoves s.moves.tail).setCommands (absorbWords m ++ encode .final :: rest)).ready = true := hr
  have first := step_of_offered_legal (.inl hm) hr words (decode_encode _)
  rw [exec_of_ready hr', effect] at first
  obtain ⟨u, absorb, hu, commands, moves⟩ := (initEffect_absorbed ((ready_iff _).mp hr').2).stepN_absorbWords
    (bytes := m) (rest := encode .final :: rest) (by simpa using short) (by simp [initEffect]) (by simp [initEffect, hm])
  obtain ⟨t, final, finished, taken⟩ := hu.stepN_final commands moves
  refine ⟨t, ?_, finished.final, finished.h, finished.readDigest, finished.status, taken⟩
  have steps : m.length + 2 + 66 * blockCount m.length = (m.length + 66 * ((([] : List Byte).length + m.length) / 64 -
      ([] : List Byte).length / 64) + if ([] ++ m).length % 64 ≤ 55 then 67 else 133) + 1 := by
    by_cases one : m.length % 64 ≤ 55
    · simp [blockCount, Config.oneBlockTail, one]
      omega
    · simp [blockCount, Config.oneBlockTail, one]
      omega
  rw [steps, stepN_succ first, stepN_add _ _ absorb, final]

end Sys2Proof.Machine
end

section
/-! SUPPORT. What cannot be told apart (10_state.md R40, R22; 60_exceptions.md R212): a step from two states the host cannot
tell apart ends alike, by what each accepted word and each engine step reads; and steps of two instances. From these the
obligations O40, O41 and O42. -/

namespace Sys2Proof.Machine

/-! ### Accepted words -/

theorem SameForHost.setCommands {s s' : State} (h : SameForHost s s') (cs : List CommandWord) :
    SameForHost (s.setCommands cs) (s'.setCommands cs) :=
  ⟨h.mode, h.faultCode, h.faultCmd, h.cnt, h.lenBits, rfl, h.moves, h.h, h.buffered, h.block, h.working, h.second⟩

theorem SameForHost.setMoves {s s' : State} (h : SameForHost s s') (ms : List HostMove) :
    SameForHost (s.setMoves ms) (s'.setMoves ms) :=
  ⟨h.mode, h.faultCode, h.faultCmd, h.cnt, h.lenBits, h.commands, rfl, h.h, h.buffered, h.block, h.working, h.second⟩

theorem raiseFault_same {s s' : State} (h : SameForHost s s') (code : FaultCode) (c : CommandWord) :
    SameForHost (raiseFault code c s) (raiseFault code c s') :=
  ⟨h.mode, rfl, rfl, h.cnt, h.lenBits, h.commands, h.moves, h.h, h.buffered, h.block, h.working, h.second⟩

/-- INIT overwrites `H`, and with `Cnt = 0` no byte of `Buf` is left to read. -/
theorem initEffect_same {s s' : State} (h : SameForHost s s') : SameForHost (initEffect s) (initEffect s') :=
  ⟨rfl, h.faultCode, h.faultCmd, rfl, rfl, h.commands, h.moves, fun _ => rfl, fun _ => rfl, nofun, nofun, nofun⟩

theorem absorbByte_same {s s' : State} (h : SameForHost s s') (m : s.mode = .absorb) (b : Byte)
    (cnt : s.cnt.val < 63) (cnt' : s'.cnt.val < 63) : SameForHost (absorbByte b s cnt) (absorbByte b s' cnt') := by
  have tail : messageTail (absorbByte b s cnt) = messageTail (absorbByte b s' cnt') := by
    have before := h.buffered (.inl m)
    rw [messageTail, messageTail] at before
    rw [absorbByte_eq, absorbByte_eq, messageTail, messageTail]
    simp only [take_toList_set, before]
  refine ⟨h.mode, h.faultCode, h.faultCmd, ?_, ?_, h.commands, h.moves, h.h, fun _ => tail, ?_, ?_, ?_⟩
  · simp [absorbByte, h.cnt]
  · simp [absorbByte, h.lenBits]
  all_goals simp [absorbByte, m]

/-- The 63 bytes held and the one that comes make the same block. -/
theorem absorbLast_same {s s' : State} (h : SameForHost s s') (m : s.mode = .absorb) (b : Byte)
    (cnt : s.cnt.val = 63) : SameForHost (absorbLast b s) (absorbLast b s') := by
  have filled (buf : Block) : (buf.set 63 b).toList = buf.toList.take 63 ++ [b] := by
    rw [← take_toList_set buf (by decide), List.take_of_length_le (by simp)]
  have held : s.buf.toList.take 63 = s'.buf.toList.take 63 := by
    have before := h.buffered (.inl m)
    rwa [messageTail, messageTail, ← h.cnt, cnt] at before
  have block : s.buf.set 63 b = s'.buf.set 63 b := by
    apply Vector.toList_inj.mp
    rw [filled, filled, held]
  rw [absorbLast_eq, absorbLast_eq]
  exact ⟨rfl, h.faultCode, h.faultCmd, rfl, congrArg (· + 8#64) h.lenBits, h.commands, h.moves,
    fun _ => h.h (by simp [m]), fun _ => rfl, fun _ => ⟨rfl, rfl, block⟩, fun _ p => absurd rfl p, nofun⟩

/-- Both paddings are of the same tail and length. -/
theorem finalBlocks_same {s s' : State} (h : SameForHost s s') (m : s.mode = .absorb) :
    SameForHost (finalBlocks s) (finalBlocks s') := by
  have sameH : s.h = s'.h := h.h (by simp [m])
  have padding : pad (messageTail s) s.lenBits = pad (messageTail s') s'.lenBits := by
    rw [h.buffered (.inl m), h.lenBits]
  obtain c | c : s.cnt.val ≤ 55 ∨ 56 ≤ s.cnt.val := by omega
  · rw [finalBlocks_eq_of_one c, finalBlocks_eq_of_one (h.cnt ▸ c), padding]
    exact ⟨rfl, h.faultCode, h.faultCmd, rfl, h.lenBits, h.commands, h.moves, fun _ => sameH, fun _ => rfl,
      fun _ => ⟨rfl, rfl, rfl⟩, fun _ p => absurd rfl p, nofun⟩
  · rw [finalBlocks_eq_of_two c, finalBlocks_eq_of_two (h.cnt ▸ c), padding]
    exact ⟨rfl, h.faultCode, h.faultCmd, rfl, h.lenBits, h.commands, h.moves, fun _ => sameH, fun _ => rfl,
      fun _ => ⟨rfl, rfl, rfl⟩, fun _ p => absurd rfl p, fun _ _ => rfl⟩

theorem effect_same {s s' : State} (h : SameForHost s s') (i : Instr) :
    SameForHost (effect i s) (effect i s') := by
  cases i with
  | nop => exact h
  | init => exact initEffect_same h
  | absorb b =>
    rw [effect, effect]
    obtain ⟨m, e⟩ | ⟨m, l, e⟩ | ⟨m, l, c, e⟩ | ⟨m, l, c, e⟩ := absorbEffect_cases b s <;> rw [e]
    · rw [absorbEffect_badState b (h.mode ▸ m)]
      exact raiseFault_same h _ _
    · rw [absorbEffect_limit b (h.mode ▸ m) (h.lenBits ▸ l)]
      exact raiseFault_same h _ _
    · rw [absorbEffect_byte b (h.mode ▸ m) (h.lenBits ▸ l) (h.cnt ▸ c)]
      exact absorbByte_same h m b _ _
    · rw [absorbEffect_last b (h.mode ▸ m) (h.lenBits ▸ l) (h.cnt ▸ c)]
      exact absorbLast_same h m b c
  | final =>
    rw [effect, effect]
    by_cases m : s.mode = .absorb
    · rw [finalEffect_blocks m, finalEffect_blocks (h.mode ▸ m)]
      exact finalBlocks_same h m
    · rw [finalEffect_badState m, finalEffect_badState (h.mode ▸ m)]
      exact raiseFault_same h _ _

/-! ### The engine's steps -/

theorem expandStep_same {s s' : State} (h : SameForHost s s') (m : s.mode = .busy) :
    SameForHost (expandStep s) (expandStep s') := by
  have sameH : s.h = s'.h := h.h (by simp [m])
  obtain ⟨-, after, blk⟩ := h.block m
  rw [expandStep_eq, expandStep_eq]
  exact ⟨h.mode, h.faultCode, h.faultCmd, h.cnt, h.lenBits, h.commands, h.moves, fun _ => sameH, h.buffered,
    fun _ => ⟨rfl, after, blk⟩, fun _ _ => ⟨sameH, congrArg expand blk, rfl⟩, h.second⟩

theorem roundStepAt_same {s s' : State} (h : SameForHost s s') (m : s.mode = .busy) (p : s.phase = .round)
    (ht : s.t.val < 64) (ht' : s'.t.val < 64) : SameForHost (roundStepAt s ht) (roundStepAt s' ht') := by
  obtain ⟨phase, after, blk⟩ := h.block m
  obtain ⟨v, w, t⟩ := h.working m (by simp [p])
  rw [roundStepAt_eq, roundStepAt_eq]
  exact ⟨h.mode, h.faultCode, h.faultCmd, h.cnt, h.lenBits, h.commands, h.moves, h.h, h.buffered,
    fun _ => ⟨by simp only [phase, t], after, blk⟩, fun _ _ => ⟨by simp only [v, w, t], w, by simp only [t]⟩, h.second⟩

theorem foldStep_same {s s' : State} (h : SameForHost s s') (m : s.mode = .busy) (p : s.phase = .fold) :
    SameForHost (foldStep s) (foldStep s') := by
  have sameH : s.h = s'.h := h.h (by simp [m])
  obtain ⟨phase, after, blk⟩ := h.block m
  obtain ⟨v, -, -⟩ := h.working m (by simp [p])
  have sums : addWords s.h s.v = addWords s'.h s'.v := by rw [sameH, v]
  have tail := h.buffered (.inr m)
  cases a : s.after with
  | toAbsorb =>
    rw [foldStep_of_toAbsorb a, foldStep_of_toAbsorb (after ▸ a)]
    exact ⟨rfl, h.faultCode, h.faultCmd, h.cnt, h.lenBits, h.commands, h.moves, fun _ => sums, fun _ => tail, nofun,
      nofun, nofun⟩
  | toPad2 =>
    rw [foldStep_of_toPad2 a, foldStep_of_toPad2 (after ▸ a)]
    exact ⟨h.mode, h.faultCode, h.faultCmd, h.cnt, h.lenBits, h.commands, h.moves, fun _ => sums, fun _ => tail,
      fun _ => ⟨rfl, rfl, h.second m a⟩, fun _ p => absurd rfl p, nofun⟩
  | toDone =>
    rw [foldStep_of_toDone a, foldStep_of_toDone (after ▸ a)]
    exact ⟨rfl, h.faultCode, h.faultCmd, h.cnt, h.lenBits, h.commands, h.moves, fun _ => sums, fun _ => tail, nofun,
      nofun, nofun⟩

/-! ### The step and runs -/

/-- Two outcomes the host cannot tell apart. -/
def SameOutcome : Host.Outcome State Fault Refusal → Host.Outcome State Fault Refusal → Prop
  | .next t, .next t' => SameForHost t t'
  | .fault r, .fault r' => r = r'
  | .refused r, .refused r' => r = r'
  | _, _ => False

theorem SameForHost.ready {s s' : State} (h : SameForHost s s') : s.ready = s'.ready := by
  rw [State.ready, State.ready, h.mode, h.faultCode]

theorem internalStep_same {s s' : State} (h : SameForHost s s') :
    SameOutcome (internalStep s) (internalStep s') := by
  have enabled : s.engineEnabled = s'.engineEnabled := by
    rw [State.engineEnabled, State.engineEnabled, h.mode, h.faultCode]
  cases en : s.engineEnabled with
  | false =>
    rw [internalStep_of_not_engineEnabled en, internalStep_of_not_engineEnabled (enabled ▸ en)]
    exact h
  | true =>
    have en' : s'.engineEnabled = true := enabled ▸ en
    have m : s.mode = .busy := ((engineEnabled_iff s).mp en).1
    have phase := (h.block m).1
    cases p : s.phase with
    | expand =>
      rw [internalStep_of_expand en p, internalStep_of_expand en' (phase ▸ p)]
      exact expandStep_same h m
    | round =>
      obtain ⟨-, -, t⟩ := h.working m (by simp [p])
      by_cases ht : s.t.val < 64
      · rw [internalStep_of_round en p ht, internalStep_of_round en' (phase ▸ p) (t ▸ ht)]
        exact roundStepAt_same h m p _ _
      · obtain ⟨mode, f⟩ := (engineEnabled_iff s).mp en
        have last : s.t.val = 64 := by omega
        rw [noRoundBeyondTheLast s mode f p last,
          noRoundBeyondTheLast s' (h.mode ▸ mode) (h.faultCode ▸ f) (phase ▸ p) (t ▸ last)]
        rfl
    | fold =>
      rw [internalStep_of_fold en p, internalStep_of_fold en' (phase ▸ p)]
      exact foldStep_same h m p

theorem hostStep_same {s s' : State} (h : SameForHost s s') (hr : s.ready = true) (c : CommandWord) :
    SameOutcome (hostStep exec c s) (hostStep exec c s') := by
  cases d : decode c with
  | legal i =>
    rw [hostStep_legal d, hostStep_legal d, exec_of_ready hr, exec_of_ready (h.ready ▸ hr)]
    exact effect_same h i
  | illegal why =>
    rw [hostStep_illegal d, hostStep_illegal d]
    exact raiseFault_same h _ _

theorem offerStep_same {s s' : State} (h : SameForHost s s') :
    SameOutcome (offerStep exec s) (offerStep exec s') := by
  rw [offerStep, offerStep, ← h.commands, ← h.ready]
  cases s.commands with
  | nil => exact internalStep_same h
  | cons c rest =>
    cases hr : s.ready with
    | false => exact internalStep_same h
    | true => exact hostStep_same (h.setCommands rest) hr c

/-- Reset leaves the host's lists only, which are the same. -/
theorem resetStep_same {s s' : State} (h : SameForHost s s') : SameForHost (resetStep s) (resetStep s') :=
  ⟨rfl, rfl, rfl, rfl, rfl, h.commands, h.moves, fun _ => rfl, fun _ => rfl, fun _ => ⟨rfl, rfl, rfl⟩,
    fun _ _ => ⟨rfl, rfl, rfl⟩, fun _ _ => rfl⟩

theorem step_same {s s' : State} (h : SameForHost s s') : SameOutcome (step s) (step s') := by
  rw [step, step, portStep, portStep, ← h.moves, ← h.commands]
  cases s.moves with
  | nil => exact offerStep_same h
  | cons mv ms =>
    cases mv with
    | offer => exact offerStep_same (h.setMoves ms)
    | pause => exact internalStep_same (h.setMoves ms)
    | withdraw => exact internalStep_same ((h.setMoves ms).setCommands s.commands.tail)
    | assertReset => exact resetStep_same (h.setMoves ms)

theorem SameOutcome.of_next {t : State} {o : Host.Outcome State Fault Refusal} (h : SameOutcome (.next t) o) :
    ∃ t', o = .next t' ∧ SameForHost t t' := by
  cases o with
  | next t' => exact ⟨t', rfl, h⟩
  | fault r => exact h.elim
  | refused r => exact h.elim

theorem SameOutcome.of_fault {r : Fault} {o : Host.Outcome State Fault Refusal} (h : SameOutcome (.fault r) o) :
    o = .fault r := by
  cases o with
  | next t' => exact h.elim
  | fault r' => exact congrArg _ (Eq.symm h)
  | refused r' => exact h.elim

/-- The outputs show `Mode`, the fault record, and `H` in DONE alone. -/
theorem SameForHost.outputs {s s' : State} (h : SameForHost s s') : s.status = s'.status ∧
    s.faultCmdOut = s'.faultCmdOut ∧ s.readDigest = s'.readDigest := by
  have dvalid : s.dvalid = s'.dvalid := by rw [State.dvalid, State.dvalid, h.mode, h.faultCode]
  refine ⟨?_, h.faultCmd, ?_⟩
  · rw [State.status, State.status, h.ready, dvalid, h.mode, h.faultCode]
  · cases valid : s.dvalid with
    | false => rw [readDigest_of_not_dvalid (by simp [valid]), readDigest_of_not_dvalid (by simp [← dvalid, valid])]
    | true =>
      have sameH : s.h = s'.h := h.h (by simp [((dvalid_iff s).mp valid).1])
      rw [readDigest_of_dvalid valid, readDigest_of_dvalid (dvalid ▸ valid), sameH]

/-- Settles O40: what a step reads is the same in both states. -/
theorem hiddenStateHasNoEffect : Obligations.HiddenStateHasNoEffect := by
  intro s s' h
  obtain ⟨status, faultCmd, digest⟩ := h.outputs
  have steps := step_same h
  exact ⟨status, faultCmd, digest, fun t run => (run ▸ steps).of_next, fun r run => (run ▸ steps).of_fault⟩

theorem stepN_same {s s' : State} (h : SameForHost s s') (n : Nat) {t : State} (run : stepN n s = .next t) :
    ∃ t', stepN n s' = .next t' ∧ SameForHost t t' := by
  induction n generalizing s s' with
  | zero =>
    obtain rfl := Host.Outcome.next.inj run
    exact ⟨s', rfl, h⟩
  | succ n ih =>
    have steps := step_same h
    cases first : step s with
    | next u =>
      obtain ⟨u', first', same⟩ := (first ▸ steps).of_next
      rw [stepN_succ first] at run
      rw [stepN_succ first']
      exact ih same run
    | fault r => simp [stepN, first] at run
    | refused r => simp [stepN, first] at run

/-- Settles O41: in IDLE nothing that R41 leaves UNWRITTEN is read before it is written, so the host cannot tell the
states apart, and a run keeps it so. -/
theorem unwrittenRegistersNeverShow : Obligations.UnwrittenRegistersNeverShow := by
  intro n s s' t idle idle' faultCode faultCmd cnt lenBits commands moves run
  have same : SameForHost s s' :=
    ⟨idle.trans idle'.symm, faultCode, faultCmd, cnt, lenBits, commands, moves, by simp [idle], by simp [idle],
      by simp [idle], by simp [idle], by simp [idle]⟩
  obtain ⟨t', run', h⟩ := stepN_same same n run
  exact ⟨t', run', h.outputs⟩

/-! ### Two instances (R212) -/

theorem systemStep_eq_next {n : Nat} {i : Fin n} {sys sys' : System n} (h : systemStep i sys = .next sys') :
    ∃ s', step sys[i.val] = .next s' ∧ sys' = sys.set i.val s' := by
  unfold systemStep at h
  cases run : step sys[i.val] with
  | next s' => exact ⟨s', rfl, by simpa [run] using h.symm⟩
  | fault r => simp [run] at h
  | refused r => simp [run] at h

theorem systemStep_of_step {n : Nat} {i : Fin n} {sys : System n} {s' : State} (h : step sys[i.val] = .next s') :
    systemStep i sys = .next (sys.set i.val s') := by
  simp [systemStep, h]

theorem systemSteps_eq_next {n : Nat} {i j : Fin n} {sys sys' : System n} (h : systemSteps i j sys = .next sys') :
    ∃ mid, systemStep i sys = .next mid ∧ systemStep j mid = .next sys' := by
  unfold systemSteps at h
  cases run : systemStep i sys with
  | next mid => exact ⟨mid, rfl, by simpa [run] using h⟩
  | fault r => simp [run] at h
  | refused r => simp [run] at h

/-- Settles O42: a step sets one place of the system, and writes to two places commute. -/
theorem instancesAreIndependent : Obligations.InstancesAreIndependent := by
  intro n i j sys sys' apart
  have apart : i.val ≠ j.val := Fin.val_ne_of_ne apart
  refine ⟨fun run => ?_, fun run => ?_⟩
  · obtain ⟨s', own, rfl⟩ := systemStep_eq_next run
    exact ⟨Vector.getElem_set_ne i.isLt j.isLt apart, by rw [own, Vector.getElem_set_self]⟩
  · obtain ⟨mid, first, second⟩ := systemSteps_eq_next run
    obtain ⟨si, stepI, rfl⟩ := systemStep_eq_next first
    obtain ⟨sj, stepJ, rfl⟩ := systemStep_eq_next second
    rw [Vector.getElem_set_ne i.isLt j.isLt apart] at stepJ
    have stepI' : step (sys.set j.val sj)[i.val] = .next si := by
      rw [Vector.getElem_set_ne j.isLt i.isLt apart.symm, stepI]
    rw [systemSteps, systemStep_of_step stepJ]
    simp only [systemStep_of_step stepI', Vector.set_comm _ _ apart]

end Sys2Proof.Machine
end

section
/-! SUPPORT. The constants as roots of primes (10_state.md R37, R38): the first 64 primes by trial division, and each entry
held against its root; and from these the obligation O43. -/

namespace Sys2Proof.Machine

/-! ### The first 64 primes -/

/-- No prime up to 17 divides `n` but `n` itself: below 19 squared this is primality. -/
abbrev SurvivesTrialDivision (n : Nat) : Prop := 2 ≤ n ∧ ∀ p ∈ [2, 3, 5, 7, 11, 13, 17], p ∣ n → n = p

theorem mem_of_prime_lt : ∀ p < 19, p.Prime → p ∈ [2, 3, 5, 7, 11, 13, 17] := by
  decide

theorem survivesTrialDivision_iff_prime {n : Nat} (hn : n < 361) : SurvivesTrialDivision n ↔ n.Prime := by
  constructor
  · rintro ⟨two, alone⟩
    by_contra composite
    have prime := Nat.minFac_prime (n := n) (by omega)
    have square := Nat.minFac_sq_le_self (by omega) composite
    have small : n.minFac < 19 := by nlinarith
    exact composite (alone _ (mem_of_prime_lt _ small prime) n.minFac_dvd ▸ prime)
  · intro prime
    refine ⟨prime.two_le, fun p hp divides => ?_⟩
    have one : p ≠ 1 := by rintro rfl; simp at hp
    exact (((Nat.dvd_prime prime).mp divides).resolve_left one).symm

/-- The first 64 primes. -/
def firstPrimes : Vector Nat 64 :=
  #v[2, 3, 5, 7, 11, 13, 17, 19, 23, 29, 31, 37, 41, 43, 47, 53, 59, 61, 67, 71, 73, 79, 83, 89, 97, 101, 103, 107, 109,
     113, 127, 131, 137, 139, 149, 151, 157, 163, 167, 173, 179, 181, 191, 193, 197, 199, 211, 223, 227, 229, 233, 239,
     241, 251, 257, 263, 269, 271, 277, 281, 283, 293, 307, 311]

theorem count_prime_eq {n : Nat} (hn : n ≤ 361) : Nat.count Nat.Prime n = Nat.count SurvivesTrialDivision n := by
  induction n with
  | zero => rfl
  | succ n ih => simp only [Nat.count_succ, ih (by omega), survivesTrialDivision_iff_prime (n := n) (by omega)]

theorem firstPrimes_count : ∀ i : Fin 64, firstPrimes[i.val] < 361 ∧ SurvivesTrialDivision firstPrimes[i.val] ∧
    Nat.count SurvivesTrialDivision firstPrimes[i.val] = i.val := by
  decide +kernel

theorem nth_prime_eq (i : Fin 64) : Nat.nth Nat.Prime i.val = firstPrimes[i.val] := by
  obtain ⟨small, survives, count⟩ := firstPrimes_count i
  have prime := (survivesTrialDivision_iff_prime small).mp survives
  calc Nat.nth Nat.Prime i.val = Nat.nth Nat.Prime (Nat.count Nat.Prime firstPrimes[i.val]) := by
        rw [count_prime_eq small.le, count]
    _ = firstPrimes[i.val] := Nat.nth_count prime

/-! ### The roots -/

/-- `q` is the integer part of the root, and the entry is its fraction's first 32 bits: the root of `p * 2^(32 * k)`,
rounded down, is `q * 2^32` and the entry. -/
theorem ivTable_roots : ∀ i : Fin 8, ∃ q : Fin 5,
    (q.val * 2 ^ 32 + (ivTable[i.val]).toNat) ^ 2 ≤ firstPrimes[i.val] * 2 ^ 64 ∧
    firstPrimes[i.val] * 2 ^ 64 < (q.val * 2 ^ 32 + (ivTable[i.val]).toNat + 1) ^ 2 := by
  decide +kernel

theorem kTable_roots : ∀ t : Fin 64, ∃ q : Fin 7,
    (q.val * 2 ^ 32 + (kTable[t.val]).toNat) ^ 3 ≤ firstPrimes[t.val] * 2 ^ 96 ∧
    firstPrimes[t.val] * 2 ^ 96 < (q.val * 2 ^ 32 + (kTable[t.val]).toNat + 1) ^ 3 := by
  decide +kernel

/-- An entry is the root's last 32 bits. -/
theorem fraction_of_root (q : Nat) (x : Word) : x.toNat = (q * 2 ^ 32 + x.toNat) % 2 ^ 32 := by
  rw [Nat.mul_add_mod_self_right, Nat.mod_eq_of_lt x.isLt]

/-- Settles O43: the primes are the first 64, and each root is checked by its power and the next one's. -/
theorem constantsAreRootFractions : Obligations.ConstantsAreRootFractions := by
  refine ⟨fun i => ?_, fun t => ?_⟩
  · obtain ⟨q, below, above⟩ := ivTable_roots i
    rw [nth_prime_eq ⟨i.val, by omega⟩]
    exact ⟨_, below, above, fraction_of_root q.val _⟩
  · obtain ⟨q, below, above⟩ := kTable_roots t
    rw [nth_prime_eq t]
    exact ⟨_, below, above, fraction_of_root q.val _⟩

end Sys2Proof.Machine
end

section
/-! SUPPORT. The assembler (30_encoding.md R77, R78): what a line's mnemonic and operand are, what its digits and
literals stand for, and the listing; and from these the obligations O55, O56 and O57. -/

namespace Sys2Proof.Machine

/-! ### Blanks and comments -/

/-- A character that stands for itself wherever it stands: no blank, no comment sign, no quote and no tick. -/
def isWordChar (c : Char) : Bool := !isBlankChar c && c != ';' && c != quoteMark && c != tickMark

theorem isWordChar_iff (c : Char) : isWordChar c = true ↔
    isBlankChar c = false ∧ c ≠ ';' ∧ c ≠ quoteMark ∧ c ≠ tickMark := by
  simp [isWordChar, and_assoc]

theorem stripComment_append {l : List Char} (h : ∀ c ∈ l, c ≠ ';' ∧ c ≠ quoteMark ∧ c ≠ tickMark)
    (rest : List Char) : stripComment .outside (l ++ rest) = l ++ stripComment .outside rest := by
  induction l with
  | nil => rfl
  | cons c cs ih =>
    obtain ⟨sign, quote, tick⟩ := h c (by simp)
    have stays : LiteralPart.after c .outside = .outside := by simp [LiteralPart.after, quote, tick]
    rw [List.cons_append, stripComment, if_neg (by simp [sign]), stays, ih fun c hc => h c (by simp [hc]), List.cons_append]

/-- What is left of a line's end is blank. -/
theorem stripComment_of_endsLine {rest : List Char} (h : endsLine rest) :
    ∀ c ∈ stripComment .outside rest, isBlankChar c = true := by
  obtain rfl | ⟨comment, rfl⟩ := h
  · simp [stripComment]
  · have onlyBlank : stripComment .outside (' ' :: ';' :: comment) = [' '] := by
      simp [stripComment, LiteralPart.after, quoteMark, tickMark]
    simp [onlyBlank, isBlankChar]

/-- Neither end of the text is blank. -/
structure Solid (cs : List Char) : Prop where
  head : ∀ c ∈ cs.head?, isBlankChar c = false
  last : ∀ c ∈ cs.getLast?, isBlankChar c = false

theorem solid_delimited {mark : Char} (visible : isBlankChar mark = false) (cs : List Char) :
    Solid (mark :: (cs ++ [mark])) := by
  refine ⟨fun c hc => ?_, fun c hc => ?_⟩
  · obtain rfl : mark = c := by simpa using hc
    exact visible
  · rw [← List.cons_append, List.getLast?_concat] at hc
    obtain rfl : mark = c := by simpa using hc
    exact visible

theorem dropWhile_blank {b cs : List Char} (hb : ∀ c ∈ b, isBlankChar c = true)
    (head : ∀ c ∈ cs.head?, isBlankChar c = false) : (b ++ cs).dropWhile isBlankChar = cs := by
  rw [List.dropWhile_append_of_pos hb]
  cases cs with
  | nil => rfl
  | cons c cs => exact List.dropWhile_cons_of_neg (by simp [head c rfl])

theorem trimBlanks_eq {b cs e : List Char} (hb : ∀ c ∈ b, isBlankChar c = true) (solid : Solid cs)
    (he : ∀ c ∈ e, isBlankChar c = true) : trimBlanks (b ++ cs ++ e) = cs := by
  have start : (b ++ cs ++ e).dropWhile isBlankChar = cs ++ (if cs = [] then [] else e) := by
    cases cs with
    | nil => simpa using fun c hc => hc.elim (hb c) (he c)
    | cons c cs => rw [List.append_assoc, dropWhile_blank hb (by simpa using solid.head)]; rfl
  have blankEnd : ∀ c ∈ (if cs = [] then [] else e).reverse, isBlankChar c = true := by
    intro c hc
    split at hc
    · simp at hc
    · exact he c (by simpa using hc)
  rw [trimBlanks, start, List.reverse_append, dropWhile_blank blankEnd (by simpa using solid.last), List.reverse_reverse]

/-! ### Mnemonic and operand -/

/-- The text is one command: a mnemonic, a blank and an operand, with nothing else but blanks and a comment. -/
structure IsCommand (text mnemonic operand : List Char) : Prop where
  body : trimBlanks (stripComment .outside text) = mnemonic ++ ' ' :: operand
  word : ∀ c ∈ mnemonic, isBlankChar c = false
  solid : Solid operand

theorem blank_of_mem_singleton : ∀ c ∈ [' '], isBlankChar c = true := by simp [isBlankChar]

/-- The mnemonic is taken up to the first blank. -/
theorem takeWhile_mnemonic {mnemonic : List Char} (word : ∀ c ∈ mnemonic, isBlankChar c = false) (operand : List Char) :
    (mnemonic ++ ' ' :: operand).takeWhile (fun c => !isBlankChar c) = mnemonic := by
  rw [List.takeWhile_append_of_pos (by simpa using word), List.takeWhile_cons_of_neg (by simp [isBlankChar]),
    List.append_nil]

theorem dropWhile_mnemonic {mnemonic : List Char} (word : ∀ c ∈ mnemonic, isBlankChar c = false) (operand : List Char) :
    (mnemonic ++ ' ' :: operand).dropWhile (fun c => !isBlankChar c) = ' ' :: operand := by
  rw [List.dropWhile_append_of_pos (by simpa using word), List.dropWhile_cons_of_neg (by simp [isBlankChar])]

theorem trimBlanks_operand {operand : List Char} (solid : Solid operand) : trimBlanks (' ' :: operand) = operand := by
  simpa using trimBlanks_eq (e := []) blank_of_mem_singleton solid (by simp)

section
variable {text mnemonic operand : List Char}

theorem parseLine_absorb (h : IsCommand text mnemonic operand)
    (m : mnemonic.map upperChar = ['A', 'B', 'S', 'O', 'R', 'B']) :
    parseLine text = lineOf ((parseByte operand).map .absorb) := by
  simp [parseLine, h.body, takeWhile_mnemonic h.word, dropWhile_mnemonic h.word, trimBlanks_operand h.solid, m]

theorem parseLine_word (h : IsCommand text mnemonic operand)
    (m : mnemonic.map upperChar = ['.', 'W', 'O', 'R', 'D']) :
    parseLine text = lineOf ((parseWord operand).map .word) := by
  simp [parseLine, h.body, takeWhile_mnemonic h.word, dropWhile_mnemonic h.word, trimBlanks_operand h.solid, m]

theorem parseLine_absorbs (h : IsCommand text mnemonic operand)
    (m : mnemonic.map upperChar = ['A', 'B', 'S', 'O', 'R', 'B', 'S']) :
    parseLine text = lineOf ((parseString operand).map .absorbs) := by
  simp [parseLine, h.body, takeWhile_mnemonic h.word, dropWhile_mnemonic h.word, trimBlanks_operand h.solid, m]

theorem parseLine_hash (h : IsCommand text mnemonic operand)
    (m : mnemonic.map upperChar = ['H', 'A', 'S', 'H']) :
    parseLine text = lineOf ((parseString operand).map .hash) := by
  simp [parseLine, h.body, takeWhile_mnemonic h.word, dropWhile_mnemonic h.word, trimBlanks_operand h.solid, m]

end

theorem assemble_line {text : List Char} {l : AsmLine} (h : parseLine text = .line l) :
    assemble [text] = some l.words := by
  simp [assemble, h]

/-- The line of a mnemonic, a blank and an operand is one command, if no comment starts within the operand. -/
theorem isCommand_of_strip {mnemonic operand rest : List Char} (plain : mnemonic.all isWordChar = true)
    (named : mnemonic ≠ []) (solid : Solid operand) (given : operand ≠ [])
    (strip : stripComment .outside (operand ++ rest) = operand ++ stripComment .outside rest) (ends : endsLine rest) :
    IsCommand (mnemonic ++ ' ' :: operand ++ rest) mnemonic operand := by
  have chars : ∀ c ∈ mnemonic, isBlankChar c = false ∧ c ≠ ';' ∧ c ≠ quoteMark ∧ c ≠ tickMark :=
    fun c hc => (isWordChar_iff c).mp (List.all_eq_true.mp plain c hc)
  have before : ∀ c ∈ mnemonic ++ [' '], c ≠ ';' ∧ c ≠ quoteMark ∧ c ≠ tickMark := by
    intro c hc
    obtain hc | rfl : c ∈ mnemonic ∨ c = ' ' := by simpa using hc
    · exact (chars c hc).2
    · simp [quoteMark, tickMark]
  have regroup (ending : List Char) : mnemonic ++ ' ' :: operand ++ ending = mnemonic ++ [' '] ++ (operand ++ ending) := by
    simp
  have whole : Solid (mnemonic ++ ' ' :: operand) := by
    refine ⟨fun c hc => ?_, fun c hc => ?_⟩
    · rw [List.head?_append_of_ne_nil _ named] at hc
      exact (chars c (List.mem_of_mem_head? hc)).1
    · rw [← List.append_nil (mnemonic ++ ' ' :: operand), regroup, List.append_nil,
        List.getLast?_append_of_ne_nil _ given] at hc
      exact solid.last c hc
  have stripped : stripComment .outside (mnemonic ++ ' ' :: operand ++ rest) =
      [] ++ (mnemonic ++ ' ' :: operand) ++ stripComment .outside rest := by
    rw [regroup, stripComment_append before, strip, List.nil_append, regroup]
  exact ⟨by rw [stripped, trimBlanks_eq (by simp) whole (stripComment_of_endsLine ends)], fun c hc => (chars c hc).1, solid⟩

/-- An operand of plain characters, as every number is. -/
theorem isCommand_of_plain {mnemonic operand rest : List Char} (plain : mnemonic.all isWordChar = true)
    (named : mnemonic ≠ []) (digits : ∀ c ∈ operand, isWordChar c = true) (given : operand ≠ []) (ends : endsLine rest) :
    IsCommand (mnemonic ++ ' ' :: operand ++ rest) mnemonic operand := by
  have chars : ∀ c ∈ operand, isBlankChar c = false ∧ c ≠ ';' ∧ c ≠ quoteMark ∧ c ≠ tickMark :=
    fun c hc => (isWordChar_iff c).mp (digits c hc)
  have solid : Solid operand :=
    ⟨fun c hc => (chars c (List.mem_of_mem_head? hc)).1, fun c hc => (chars c (List.mem_of_mem_getLast? hc)).1⟩
  exact isCommand_of_strip plain named solid given (stripComment_append (fun c hc => (chars c hc).2) rest) ends

/-! ### Numbers -/

theorem hexValue_hexDigitChar : ∀ (d : Fin 16) (capital : Bool), hexValue (hexDigitChar d capital) = some d.val := by
  decide +kernel

theorem hexValue_decimal : ∀ d : Fin 10, hexValue (Char.ofNat (48 + d.val)) = some d.val := by
  decide +kernel

theorem isWordChar_hexDigitChar : ∀ (d : Fin 16) (capital : Bool), isWordChar (hexDigitChar d capital) = true := by
  decide +kernel

theorem isWordChar_decimal : ∀ d : Fin 10, isWordChar (Char.ofNat (48 + d.val)) = true := by
  decide +kernel

theorem hexText_isWordChar (ds : List (Fin 16 × Bool)) : ∀ c ∈ hexText ds, isWordChar c = true := by
  intro c hc
  obtain ⟨d, -, rfl⟩ := List.mem_map.mp hc
  exact isWordChar_hexDigitChar d.1 d.2

theorem decimalText_isWordChar (ds : List (Fin 10)) : ∀ c ∈ decimalText ds, isWordChar c = true := by
  intro c hc
  obtain ⟨d, -, rfl⟩ := List.mem_map.mp hc
  exact isWordChar_decimal d

theorem digitsValue_cons {base acc d : Nat} {c : Char} (hc : hexValue c = some d) (hd : d < base) (cs : List Char) :
    digitsValue base acc (c :: cs) = digitsValue base (base * acc + d) cs := by
  simp [digitsValue, hc, hd]

theorem digitsValue_hexText (ds : List (Fin 16 × Bool)) (acc : Nat) :
    digitsValue 16 acc (hexText ds) = some (ds.foldl (fun n d => 16 * n + d.1.val) acc) := by
  induction ds generalizing acc with
  | nil => rfl
  | cons d ds ih =>
    rw [hexText, List.map_cons, digitsValue_cons (hexValue_hexDigitChar d.1 d.2) d.1.isLt]
    exact ih _

theorem digitsValue_decimalText (ds : List (Fin 10)) (acc : Nat) :
    digitsValue 10 acc (decimalText ds) = some (ds.foldl (fun n d => 10 * n + d.val) acc) := by
  induction ds generalizing acc with
  | nil => rfl
  | cons d ds ih =>
    rw [decimalText, List.map_cons, digitsValue_cons (hexValue_decimal d) d.isLt]
    exact ih _

/-- No digit is the letter of `0x`. -/
theorem ne_x_of_hexValue {c : Char} {d : Nat} (h : hexValue c = some d) : c ≠ 'x' := by
  rintro rfl
  have none : hexValue 'x' = none := by decide +kernel
  simp [none] at h

theorem x_not_mem_hexText (ds : List (Fin 16 × Bool)) : 'x' ∉ hexText ds := by
  intro h
  obtain ⟨d, -, hd⟩ := List.mem_map.mp h
  exact ne_x_of_hexValue (hexValue_hexDigitChar d.1 d.2) hd

theorem x_not_mem_decimalText (ds : List (Fin 10)) : 'x' ∉ decimalText ds := by
  intro h
  obtain ⟨d, -, hd⟩ := List.mem_map.mp h
  exact ne_x_of_hexValue (hexValue_decimal d) hd

theorem hexText_ne_nil {ds : List (Fin 16 × Bool)} (h : ds ≠ []) : hexText ds ≠ [] := by
  simpa [hexText] using h

theorem decimalText_ne_nil {ds : List (Fin 10)} (h : ds ≠ []) : decimalText ds ≠ [] := by
  simpa [decimalText] using h

theorem parseNumber_of_0x {cs : List Char} (h : cs ≠ []) : parseNumber ('0' :: 'x' :: cs) = digitsValue 16 0 cs := by
  cases cs with
  | nil => exact absurd rfl h
  | cons c cs => rfl

theorem parseHexNumber_of_0x {cs : List Char} (h : cs ≠ []) :
    parseHexNumber ('0' :: 'x' :: cs) = digitsValue 16 0 cs := by
  cases cs with
  | nil => exact absurd rfl h
  | cons c cs => rfl

theorem parseNumber_of_no_x {cs : List Char} (h : cs ≠ []) (x : 'x' ∉ cs) : parseNumber cs = digitsValue 10 0 cs := by
  unfold parseNumber
  split
  · exact absurd rfl h
  · simp at x
  · rfl

theorem parseHexNumber_of_no_x {cs : List Char} (h : cs ≠ []) (x : 'x' ∉ cs) :
    parseHexNumber cs = digitsValue 16 0 cs := by
  unfold parseHexNumber
  split
  · exact absurd rfl h
  · simp at x
  · rfl

/-! ### Operands -/

/-- What begins with no tick is read as a number. -/
theorem parseByte_of_number {cs : List Char} {n : Nat} (plain : ∀ c ∈ cs, isWordChar c = true)
    (number : parseNumber cs = some n) (small : n < 256) : parseByte cs = some (BitVec.ofNat 8 n) := by
  have noTick : ∀ c ∈ cs, c ≠ tickMark := by
    intro c hc
    obtain ⟨-, -, -, tick⟩ := (isWordChar_iff c).mp (plain c hc)
    exact tick
  unfold parseByte
  split
  case h_1 q c q' => rw [if_neg fun ticks => noTick q (by simp) ticks.1, number]; simp [small]
  case h_2 => rw [number]; simp [small]

theorem parseWord_of_number {cs : List Char} {n : Nat} (number : parseHexNumber cs = some n) (small : n < 65536) :
    parseWord cs = some (BitVec.ofNat 16 n) := by
  simp [parseWord, number, small]

theorem asciiByte_ofNat {b : Byte} (ascii : b.toNat < 128) : asciiByte (Char.ofNat b.toNat) = some b := by
  have back : ∀ n : Fin 128, (Char.ofNat n.val).toNat = n.val := by decide +kernel
  rw [asciiByte, back ⟨b.toNat, ascii⟩]
  simp [ascii]

theorem parseByte_of_literal {b : Byte} (ascii : b.toNat < 128) :
    parseByte [tickMark, Char.ofNat b.toNat, tickMark] = some b := by
  simp [parseByte, asciiByte_ofNat ascii]

/-! ### ABSORB and `.word` -/

theorem assemble_absorb {text mnemonic operand : List Char} {b : Byte} (h : IsCommand text mnemonic operand)
    (m : mnemonic.map upperChar = ['A', 'B', 'S', 'O', 'R', 'B']) (parse : parseByte operand = some b) :
    assemble [text] = some [encode (.absorb b)] :=
  assemble_line (l := .absorb b) (by rw [parseLine_absorb h m, parse]; rfl)

theorem assemble_word {text mnemonic operand : List Char} {c : CommandWord} (h : IsCommand text mnemonic operand)
    (m : mnemonic.map upperChar = ['.', 'W', 'O', 'R', 'D']) (parse : parseWord operand = some c) :
    assemble [text] = some [c] :=
  assemble_line (l := .word c) (by rw [parseLine_word h m, parse]; rfl)

theorem zero_x_isWordChar {cs : List Char} (h : ∀ c ∈ cs, isWordChar c = true) :
    ∀ c ∈ '0' :: 'x' :: cs, isWordChar c = true := by
  intro c hc
  obtain rfl | rfl | hc : c = '0' ∨ c = 'x' ∨ c ∈ cs := by simpa using hc
  · decide +kernel
  · decide +kernel
  · exact h c hc

section
variable {rest : List Char} (ends : endsLine rest)
include ends

theorem assemble_absorb_hex {ds : List (Fin 16 × Bool)} (given : ds ≠ []) (small : hexNumber ds < 256) :
    assemble ["ABSORB 0x".toList ++ hexText ds ++ rest] = some [encode (.absorb (BitVec.ofNat 8 (hexNumber ds)))] := by
  have digits := zero_x_isWordChar (hexText_isWordChar ds)
  have number : parseNumber ('0' :: 'x' :: hexText ds) = some (hexNumber ds) :=
    (parseNumber_of_0x (hexText_ne_nil given)).trans (digitsValue_hexText ds 0)
  have command := isCommand_of_plain (mnemonic := "ABSORB".toList) (by decide +kernel) (by simp) digits (by simp) ends
  exact assemble_absorb command (by decide +kernel) (parseByte_of_number digits number small)

theorem assemble_absorb_decimal {ds : List (Fin 10)} (given : ds ≠ []) (small : decimalNumber ds < 256) :
    assemble ["absorb ".toList ++ decimalText ds ++ rest] =
      some [encode (.absorb (BitVec.ofNat 8 (decimalNumber ds)))] := by
  have digits := decimalText_isWordChar ds
  have number : parseNumber (decimalText ds) = some (decimalNumber ds) :=
    (parseNumber_of_no_x (decimalText_ne_nil given) (x_not_mem_decimalText ds)).trans (digitsValue_decimalText ds 0)
  have command := isCommand_of_plain (mnemonic := "absorb".toList) (by decide +kernel) (by simp) digits
    (decimalText_ne_nil given) ends
  exact assemble_absorb command (by decide +kernel) (parseByte_of_number digits number small)

theorem assemble_word_hex {ds : List (Fin 16 × Bool)} (given : ds ≠ []) (small : hexNumber ds < 65536) :
    assemble [".word ".toList ++ hexText ds ++ rest] = some [BitVec.ofNat 16 (hexNumber ds)] := by
  have number : parseHexNumber (hexText ds) = some (hexNumber ds) :=
    (parseHexNumber_of_no_x (hexText_ne_nil given) (x_not_mem_hexText ds)).trans (digitsValue_hexText ds 0)
  have command := isCommand_of_plain (mnemonic := ".word".toList) (by decide +kernel) (by simp) (hexText_isWordChar ds)
    (hexText_ne_nil given) ends
  exact assemble_word command (by decide +kernel) (parseWord_of_number number small)

theorem assemble_word_0x {ds : List (Fin 16 × Bool)} (given : ds ≠ []) (small : hexNumber ds < 65536) :
    assemble [".word 0x".toList ++ hexText ds ++ rest] = some [BitVec.ofNat 16 (hexNumber ds)] := by
  have number : parseHexNumber ('0' :: 'x' :: hexText ds) = some (hexNumber ds) :=
    (parseHexNumber_of_0x (hexText_ne_nil given)).trans (digitsValue_hexText ds 0)
  have command := isCommand_of_plain (mnemonic := ".word".toList) (by decide +kernel) (by simp)
    (zero_x_isWordChar (hexText_isWordChar ds)) (by simp) ends
  exact assemble_word command (by decide +kernel) (parseWord_of_number number small)

/-- Whatever its character is, a literal is three characters that no comment cuts. -/
theorem assemble_absorb_literal {b : Byte} (ascii : b.toNat < 128) :
    assemble ["ABSORB '".toList ++ [Char.ofNat b.toNat] ++ "'".toList ++ rest] = some [encode (.absorb b)] := by
  have solid := solid_delimited (mark := tickMark) (by simp [isBlankChar, tickMark]) [Char.ofNat b.toNat]
  have strip : stripComment .outside ([tickMark, Char.ofNat b.toNat, tickMark] ++ rest) =
      [tickMark, Char.ofNat b.toNat, tickMark] ++ stripComment .outside rest := by
    simp [stripComment, LiteralPart.after, tickMark, quoteMark]
  have command := isCommand_of_strip (mnemonic := "ABSORB".toList) (by decide +kernel) (by simp) solid (by simp) strip ends
  exact assemble_absorb command (by decide +kernel) (parseByte_of_literal ascii)

end

/-- Settles O56, one spelling after another. -/
theorem operandFormsAssemble : Obligations.OperandFormsAssemble :=
  fun _ ends => ⟨fun _ given small => assemble_absorb_hex ends given small,
    fun _ given small => assemble_absorb_decimal ends given small, fun _ ascii => assemble_absorb_literal ends ascii,
    fun _ given small => ⟨assemble_word_hex ends given small, assemble_word_0x ends given small⟩⟩

/-! ### The listing -/

/-- The four digits of a word, most significant first, in capitals. -/
def listingDigits (c : CommandWord) : List (Fin 16 × Bool) :=
  [12, 8, 4, 0].map fun lo => ((c.extractLsb' lo 4).toFin, true)

theorem listingDigit_eq : ∀ n : BitVec 4, listingDigit n = hexDigitChar n.toFin true := by
  decide +kernel

theorem listingWord_eq (c : CommandWord) : listingWord c = hexText (listingDigits c) := by
  simp [listingWord, hexText, listingDigits, listingDigit_eq]

theorem hexNumber_listingDigits (c : CommandWord) : hexNumber (listingDigits c) = c.toNat := by
  have := c.isLt
  simp [hexNumber, listingDigits, Nat.shiftRight_eq_div_pow]
  omega

theorem hexNumber_byte (b : Byte) :
    hexNumber [((b.extractLsb' 4 4).toFin, true), ((b.extractLsb' 0 4).toFin, true)] = b.toNat := by
  have := b.isLt
  simp [hexNumber, Nat.shiftRight_eq_div_pow]
  omega

/-- The word and two spaces go before the assembly of the line. -/
theorem drop_listing_prefix (c : CommandWord) (assembly : List Char) :
    (listingWord c ++ [' ', ' '] ++ assembly).drop 6 = assembly :=
  List.drop_left' rfl

/-- Settles O55: the line shows the command its word decodes to, or the word itself. -/
theorem listingAssemblesToItsWord : Obligations.ListingAssemblesToItsWord := by
  intro c
  constructor
  · rw [listing, drop_listing_prefix]
    cases d : decode c with
    | legal i =>
      obtain rfl := decode_eq_legal_iff.mp d
      cases i with
      | nop => decide +kernel
      | init => decide +kernel
      | absorb b =>
        have line := assemble_absorb_hex (rest := []) (.inl rfl) (List.cons_ne_nil _ _)
          ((hexNumber_byte b).trans_lt b.isLt)
        rw [hexNumber_byte, BitVec.ofNat_toNat, BitVec.setWidth_eq] at line
        simpa [hexText, listingDigit_eq] using line
      | final => decide +kernel
    | illegal why =>
      have line := assemble_word_0x (rest := []) (ds := listingDigits c) (.inl rfl) (List.cons_ne_nil _ _)
        ((hexNumber_listingDigits c).trans_lt c.isLt)
      rw [hexNumber_listingDigits, BitVec.ofNat_toNat, BitVec.setWidth_eq, ← listingWord_eq] at line
      simpa using line
  · have digits : (listing c).take 4 = listingWord c := by
      rw [listing, List.append_assoc]
      exact List.take_left' rfl
    rw [digits, listingWord_eq, digitsValue_hexText, ← hexNumber_listingDigits]
    rfl

/-! ### Strings -/

theorem stripComment_inString {cs : List Char} (h : quoteMark ∉ cs) (rest : List Char) :
    stripComment .inString (cs ++ quoteMark :: rest) = cs ++ quoteMark :: stripComment .outside rest := by
  induction cs with
  | nil => simp [stripComment, LiteralPart.after]
  | cons c cs ih =>
    have other : c ≠ quoteMark := fun eq => h (by simp [eq])
    have stays : LiteralPart.after c .inString = .inString := by simp [LiteralPart.after, other]
    rw [List.cons_append, stripComment, if_neg (by simp), stays, ih fun hc => h (by simp [hc]), List.cons_append]

theorem parseQuoted_text {text : List Byte} (ascii : ∀ b ∈ text, b.toNat < 128)
    (h : quoteMark ∉ text.map fun b => Char.ofNat b.toNat) :
    parseQuoted (text.map (fun b => Char.ofNat b.toNat) ++ [quoteMark]) = some text := by
  induction text with
  | nil => simp [parseQuoted]
  | cons b text ih =>
    rw [List.map_cons, List.mem_cons, not_or] at h
    rw [List.map_cons, List.cons_append, parseQuoted, if_neg (Ne.symm h.1), asciiByte_ofNat (ascii b (by simp)),
      ih (fun b hb => ascii b (by simp [hb])) h.2]
    rfl

/-- Of the ASCII characters, the quote alone has the code 34. -/
theorem quoteMark_not_mem {text : List Byte} (h : ∀ b ∈ text, b.toNat < 128 ∧ b.toNat ≠ 34) :
    quoteMark ∉ text.map fun b => Char.ofNat b.toNat := by
  have code : ∀ n : Fin 128, Char.ofNat n.val = quoteMark → n.val = 34 := by decide +kernel
  intro quoted
  obtain ⟨b, hb, eq⟩ := List.mem_map.mp quoted
  obtain ⟨ascii, other⟩ := h b hb
  exact other (code ⟨b.toNat, ascii⟩ eq)

section
variable {text : List Byte} (h : ∀ b ∈ text, b.toNat < 128 ∧ b.toNat ≠ 34)
include h

theorem parseString_text :
    parseString (quoteMark :: (text.map (fun b => Char.ofNat b.toNat) ++ [quoteMark])) = some text := by
  rw [parseString, if_pos rfl, parseQuoted_text (fun b hb => (h b hb).1) (quoteMark_not_mem h)]

/-- A string is an operand to its last quote: what is between them starts no comment. -/
theorem isCommand_of_string {mnemonic : List Char} (plain : mnemonic.all isWordChar = true) (named : mnemonic ≠ []) :
    IsCommand (mnemonic ++ ' ' :: (quoteMark :: (text.map (fun b => Char.ofNat b.toNat) ++ [quoteMark])) ++ []) mnemonic
      (quoteMark :: (text.map (fun b => Char.ofNat b.toNat) ++ [quoteMark])) := by
  have solid := solid_delimited (mark := quoteMark) (by simp [isBlankChar, quoteMark])
    (text.map fun b => Char.ofNat b.toNat)
  refine isCommand_of_strip plain named solid (List.cons_ne_nil _ _) ?_ (.inl rfl)
  have opens : LiteralPart.after quoteMark .outside = .inString := by simp [LiteralPart.after]
  have atEnd : stripComment .outside [] = [] := rfl
  rw [atEnd, List.append_nil, stripComment, if_neg (by simp [quoteMark]), opens, stripComment_inString (quoteMark_not_mem h)]
  rfl

end

/-- Settles O57: both lines are one command whose operand is the string. -/
theorem stringOperandsAssemble : Obligations.StringOperandsAssemble := by
  intro text h
  have bytes : text.map (fun b => 0x2000#16 + b.setWidth 16) = absorbWords text := by simp [absorbWords, encode_absorb]
  have quote : quoteMark = '"' := rfl
  rw [bytes]
  constructor
  · have command := isCommand_of_string h (mnemonic := "ABSORBS".toList) (by decide +kernel) (by simp)
    have line := assemble_line (l := .absorbs text)
      (by rw [parseLine_absorbs command (by decide +kernel), parseString_text h]; rfl)
    have words : (AsmLine.absorbs text).words = absorbWords text := rfl
    simpa [quote, words] using line
  · have command := isCommand_of_string h (mnemonic := "HASH".toList) (by decide +kernel) (by simp)
    have line := assemble_line (l := .hash text)
      (by rw [parseLine_hash command (by decide +kernel), parseString_text h]; rfl)
    have words : (AsmLine.hash text).words = 0x1000#16 :: (absorbWords text ++ [0x3000#16]) := rfl
    simpa [quote, words] using line

end Sys2Proof.Machine
end
